-- ==== Sys2Proof/Word.lean ====
section
/-! DEFINITION. The words of the tick block: the types whose width the spec fixes (00_scope R18: bit 0
is the least significant bit of every value, every value is unsigned). Widths that depend on the
parameters `K` and `CW` are written where they are used. -/

namespace Sys2Proof

/-- The 5-bit request word `REQ` = RST, FIRE, RD_EN, RD_IDX from bit 4 down (30_encoding R60). -/
abbrev Req := BitVec 5

/-- A counter index `RD_IDX` (30_encoding R63). -/
abbrev CntIdx := BitVec 2

/-- A macro-state, a row of the table, an entry of the table (30_encoding R64, R66, R67). -/
abbrev MacroState := BitVec 2

/-- A draw, a column of the table (30_encoding R65). -/
abbrev Draw := BitVec 4

/-- The shift register (10_state R21). -/
abbrev LfsrWord := BitVec 16

/-- A byte of a trace listing or of the reader's status line; the block itself has no bytes (20_memory R43). -/
abbrev Byte := BitVec 8

end Sys2Proof
end

