-- ==== Sys2Proof/Syntax.lean ====
section
/-! DEFINITION. The operations of the block, one constructor for each row of spec/opcode_table.json
(30_encoding R61). The six micro-operations of 30_encoding R74 cannot be requested from outside, so they are
operations of the machine, not constructors. -/

namespace Sys2Proof

/-- The operation a request word selects (30_encoding R61). The only operand is the counter index (R63). -/
inductive Instr
  /-- `RESET`, 44_operations R131. -/
  | reset
  /-- `FIRE`, 44_operations R132. -/
  | fire
  /-- `READ i`, 43_counters_read R115 and 44_operations R133. -/
  | read (i : CntIdx)
  /-- `FIRE_READ i`, 44_operations R134. -/
  | fireRead (i : CntIdx)
  /-- `IDLE`, 44_operations R135. -/
  | idle
deriving DecidableEq, Repr

end Sys2Proof
end

