-- ==== Sys2Proof/Decode.lean ====
section
/-! DEFINITION. The decoder of request words (30_encoding R60 to R63) and, after it, the encoder (R72). The decode of
a 5-bit word is total; a byte that is no 5-bit word is rejected by name. -/

namespace Sys2Proof

/-- Operand decode: `i = REQ[1:0]`, used as it stands (30_encoding R63). -/
def rdIdxOf (w : Req) : CntIdx := w.extractLsb' 0 2

/-- The masks and matches of 30_encoding R61, row by row in the rule's order. -/
structure DecodeRow where
  mask : Req
  pattern : Req
deriving DecidableEq, Repr

/-- The rows `RESET`, `FIRE`, `READ`, `FIRE_READ`, `IDLE` of 30_encoding R61. -/
def decodeRows : List DecodeRow :=
  [⟨0x10#5, 0x10#5⟩, ⟨0x1C#5, 0x08#5⟩, ⟨0x1C#5, 0x04#5⟩, ⟨0x1C#5, 0x0C#5⟩, ⟨0x1C#5, 0x00#5⟩]

/-- A row applies to a request word when the word agrees with the row's pattern under its mask. -/
def DecodeRow.applies (r : DecodeRow) (w : Req) : Bool := (w &&& r.mask) == r.pattern

/-- Decode of the request word (30_encoding R61); `RST` has priority. The five rows cover all 32 words (R62), so the
last arm is the row `000xx`. -/
def decodeReq (w : Req) : Instr :=
  if w &&& 0x10#5 = 0x10#5 then .reset
  else if w &&& 0x1C#5 = 0x08#5 then .fire
  else if w &&& 0x1C#5 = 0x04#5 then .read (rdIdxOf w)
  else if w &&& 0x1C#5 = 0x0C#5 then .fireRead (rdIdxOf w)
  else .idle

/-- Why a list of bytes is no request word: the model's own names (log entry 15), the spec has no illegal request. -/
inductive DecodeError
  /-- There is no byte to decode. -/
  | noByte
  /-- The byte has a bit set above bit 4, and the block has five request pins (30_encoding R60). -/
  | notARequestWord
deriving DecidableEq, Repr

/-- Decode of a trace listing that gives each request word in one byte (95_test_vectors section 3): the operation of the
first byte and the bytes that follow. -/
def decodeBytes : List Byte → Except DecodeError (Instr × List Byte)
  | [] => .error .noByte
  | b :: rest => if b.toNat < 32 then .ok (decodeReq (b.setWidth 5), rest) else .error .notARequestWord

/-- The bytes of a table row's word, the byte of bits 7..0 first (log entry 15). -/
def tableBytes (nbits w : Nat) : List Byte :=
  (List.range ((nbits + 7) / 8)).map (fun j => BitVec.ofNat 8 ((w % 2 ^ nbits) >>> (8 * j)))

/-- The operation the decoder reads from a word numbered as spec/opcode_table.json numbers it. -/
def decodeTableWord (nbits w : Nat) : Option Instr :=
  match decodeBytes (tableBytes nbits w) with
  | .ok (i, _) => some i
  | .error _ => none

/-- The canonical request word of an operation: the row's match value, the index in bits 1..0, every ignored bit 0
(30_encoding R72). -/
def encode : Instr → Req
  | .reset => 0x10#5
  | .fire => 0x08#5
  | .read i => 0x04#5 ||| i.setWidth 5
  | .fireRead i => 0x0C#5 ||| i.setWidth 5
  | .idle => 0x00#5

/-- The bits of the request word that are not ignored for an operation: the row's mask, and `RD_IDX` where the row has
`ii` (30_encoding R61). -/
def careMask : Instr → Req
  | .reset => 0x10#5
  | .fire => 0x1C#5
  | .read _ => 0x1F#5
  | .fireRead _ => 0x1F#5
  | .idle => 0x1C#5

/-- The byte of a trace listing (95_test_vectors section 3). -/
def encodeByte (i : Instr) : Byte := (encode i).setWidth 8

end Sys2Proof
end

