-- ==== Sys2Proof/Config.lean ====
section
/-! DEFINITION. What is fixed when the block is built (00_scope R8 to R13, R29), and the free values. -/

namespace Sys2Proof

/-- `MODE`, the strap that selects the table the transition engine looks up (00_scope R12). -/
inductive Mode
  | stutter
  | steady
deriving DecidableEq, Repr

/-- The build-time parameters (00_scope R8 to R13). `TAP` (R11) and the steady table (R14) are constants of
the spec, not parameters: `Machine.tap`, `Machine.steadyEntry`. The fields are numbers, not words, so that a
configuration the spec refuses (R17) can be written down and be refused by name. -/
structure Config where
  /-- `K`, the depth of the sub-step counter (R8). -/
  k : Nat
  /-- `CW`, the width in bits of each visit counter (R9). -/
  cw : Nat
  /-- `SEED`, the reset value of the shift register (R10). -/
  seed : Nat
  /-- `MODE` (R12). -/
  mode : Mode
  /-- `TABLE`, 64 entries, row `r` column `c` at address `16 * r + c` (R13, 20_memory R42). -/
  table : Vector Nat 64
deriving DecidableEq, Repr

/-- FREE VALUE (log entry 16): the host parameter `RATIO_TIE` that 43_counters_read R118 leaves `OPEN`: whether a
printed ratio that lies exactly halfway between two thousandths is rounded up, for a given `c0` and `total`. -/
opaque Config.ratioTieUp : Nat → Nat → Bool

/-- FREE VALUE (log entry 16): the line a reader of policy `no_data_line` sends while `total = 0`; 43_counters_read
R119 names the policy and gives no text. -/
opaque Config.noDataLine : List Byte

/-- FREE VALUE (log entry 16): the line a reader of policy `print_nan` sends while `total = 0`; 43_counters_read R119
gives no text. -/
opaque Config.nanLine : List Byte

end Sys2Proof
end

