-- ==== Sys2Proof/Machine/Block.lean ====
section
/-! DEFINITION. The architectural state of the block, exactly the seven items of 10_state R20, and their reset
values (10_state R34). -/

namespace Sys2Proof.Machine

/-- The whole architectural state of the block (10_state R20) for a sub-step depth `k` and a counter width `cw`. -/
structure Block (k cw : Nat) where
  /-- `LFSR`, 16 bits (R21). -/
  lfsr : LfsrWord
  /-- `STATE`, `K+2` bits, the packed `macro_index << K | substep` (R22). -/
  state : BitVec (k + 2)
  /-- `TOCK`, one bit (R24). -/
  tock : Bool
  /-- `CNT[0]` to `CNT[3]`, `CW` bits each (R25). -/
  cnt : Vector (BitVec cw) 4
  /-- `LED`, an output register, true for high (R26). -/
  led : Bool
  /-- `ACT_A`, an output register, true for high (R26). -/
  actA : Bool
  /-- `ACT_B`, an output register, true for high (R26). -/
  actB : Bool
deriving DecidableEq, Repr

/-- The reset values (10_state R34, 44_operations R131). Those of `TOCK` and of the pins are the spec's decisions D12
and D13 (log entry 7). -/
def Block.atReset (c : Config) : Block c.k c.cw :=
  { lfsr := BitVec.ofNat 16 c.seed
    state := 0
    tock := false
    cnt := Vector.replicate 4 0
    led := false
    actA := false
    actB := false }

end Sys2Proof.Machine
end

