-- ==== Sys2Proof/Machine/Operands.lean ====
section
/-! DEFINITION. The fields of the packed state and the assembly of the draw, the row and the table address
(30_encoding R64 to R67). -/

namespace Sys2Proof.Machine

/-- `rev4(n)`, the four bits in reverse (00_scope R18). -/
def rev4 (n : BitVec 4) : BitVec 4 :=
  BitVec.ofBool n[0] ++ BitVec.ofBool n[1] ++ BitVec.ofBool n[2] ++ BitVec.ofBool n[3]

/-- `macro_index = STATE[K+1:K]` (30_encoding R64). -/
def macroIndex (k : Nat) (st : BitVec (k + 2)) : MacroState := st.extractLsb' k 2

/-- `substep = STATE[K-1:0]` (30_encoding R64). -/
def substep (k : Nat) (st : BitVec (k + 2)) : BitVec k := st.extractLsb' 0 k

/-- `macro_index << K | substep` (30_encoding R64). -/
def pack (k : Nat) (m : MacroState) (sub : BitVec k) : BitVec (k + 2) :=
  (m.setWidth (k + 2) <<< k) ||| sub.setWidth (k + 2)

/-- The draw from the four extracted bits, the first extracted bit the most significant (30_encoding R65). -/
def drawOf (b1 b2 b3 b4 : Bool) : Draw :=
  BitVec.ofBool b1 ++ BitVec.ofBool b2 ++ BitVec.ofBool b3 ++ BitVec.ofBool b4

/-- `s1 = STATE + 1`, computed at `K+3` bits (41_transition R90). -/
def nextPacked (k : Nat) (st : BitVec (k + 2)) : BitVec (k + 3) := st.setWidth (k + 3) + 1

/-- `row = (s1 >> K) - 1`, two bits (30_encoding R66, 41_transition R90). -/
def rowOf (k : Nat) (s1 : BitVec (k + 3)) : MacroState := ((s1 >>> k) - 1).setWidth 2

/-- `STATE` on a transition to `m`: `m << K` (41_transition R90). -/
def landOn (k : Nat) (m : MacroState) : BitVec (k + 2) := m.setWidth (k + 2) <<< k

/-- The address of a table entry: the row above the column, `16 * row + column` (20_memory R42, 30_encoding R67). -/
def tableAddr (row : MacroState) (column : Draw) : BitVec 6 := row ++ column

end Sys2Proof.Machine
end

