-- ==== Sys2Proof/Machine/Lfsr.lean ====
section
/-! DEFINITION. The pseudo-random generator: `LFSR_STEP` and `NEXT4` (40_lfsr). -/

namespace Sys2Proof.Machine

/-- `TAP`, the feedback mask (00_scope R11). -/
def tap : LfsrWord := 0xB400#16

/-- `LFSR_STEP`: the extracted bit and the register after the step (40_lfsr R80). -/
def lfsrStep (x : LfsrWord) : Bool × LfsrWord :=
  let lsb := x[0]
  let sh := x >>> 1
  (lsb, if lsb then sh ^^^ tap else sh)

/-- `NEXT4`: the draw and the register after four steps (40_lfsr R81). -/
def next4 (x : LfsrWord) : Draw × LfsrWord :=
  let (b1, x1) := lfsrStep x
  let (b2, x2) := lfsrStep x1
  let (b3, x3) := lfsrStep x2
  let (b4, x4) := lfsrStep x3
  (drawOf b1 b2 b3 b4, x4)

end Sys2Proof.Machine
end

