-- ==== Sys2Proof/Machine/Flags.lean ====
section
/-! DEFINITION. The derived signals `transitioned` and `tick` and the stored flag `TOCK` (10_state R31). There are no
condition codes. -/

namespace Sys2Proof.Machine

/-- `transitioned`: the incremented state is a multiple of `2^K`, the sub-step has wrapped (41_transition R90). -/
def transitionedBy (k : Nat) (s1 : BitVec (k + 3)) : Bool := s1.toNat % 2 ^ k == 0

/-- `tick`, the tick-edge detector: a compare of `STATE` with zero (42_output R105, R114). -/
def tickOf (k : Nat) (st : BitVec (k + 2)) : Bool := st == 0

/-- `TOCK` after `DRIVE`: toggled at a tick event, else kept (42_output R107, R108). -/
def tockAfter (tick tock : Bool) : Bool := if tick then !tock else tock

end Sys2Proof.Machine
end

