-- ==== Sys2Proof/Machine/Output.lean ====
section
/-! DEFINITION. The output pin driver and tick-edge detector: `DRIVE` (42_output). -/

namespace Sys2Proof.Machine

/-- What `DRIVE` writes (42_output R105): `TOCK` and the three pin registers. -/
structure Driven where
  tock : Bool
  led : Bool
  actA : Bool
  actB : Bool
deriving DecidableEq, Repr

/-- `DRIVE`: the pins from the packed state `ADVANCE` left and from `TOCK`, and nothing else (42_output R105, R114). New
`TOCK = 1` drives `ACT_A` (R107; the spec's decision D12, log entry 8). -/
def drive (k : Nat) (st : BitVec (k + 2)) (tock : Bool) : Driven :=
  let tick := tickOf k st
  let tock' := tockAfter tick tock
  if tick then { tock := tock', led := true, actA := tock', actB := !tock' }
  else { tock := tock', led := false, actA := false, actB := false }

end Sys2Proof.Machine
end

