-- ==== Sys2Proof/Machine/Defaults.lean ====
section
/-! DEFINITION. The default configuration (00_scope R8 to R13, 30_encoding R68). -/

namespace Sys2Proof

/-- `TABLE`, default contents, address `16 * row + column`, row by row (30_encoding R68; the spec's decision D8,
log entry 6). -/
def defaultTable : Vector Nat 64 :=
  #v[0, 1, 1, 1, 1, 1, 1, 1, 1, 1, 1, 1, 1, 1, 1, 3,
     1, 2, 2, 2, 2, 2, 2, 2, 2, 2, 2, 2, 2, 2, 2, 0,
     2, 3, 3, 3, 3, 3, 3, 3, 3, 3, 3, 3, 3, 3, 3, 1,
     3, 0, 0, 0, 0, 0, 0, 0, 0, 0, 0, 0, 0, 0, 0, 2]

/-- The default parameters: `K = 1` (00_scope R8), `CW = 32` (R9), `SEED = 0xACE1` (R10), `MODE = STUTTER` (R12), the
default `TABLE` (R13). -/
def Config.default : Config :=
  { k := 1, cw := 32, seed := 0xACE1, mode := .stutter, table := defaultTable }

end Sys2Proof
end

