-- ==== Sys2Proof/WellFormed.lean ====
section
/-! DEFINITION. Well-formedness. No request is illegal (30_encoding R62, R71), so the checks are those of the
configuration: the seven named checks of 00_scope R17. -/

namespace Sys2Proof

/-- The named checks of 00_scope R17, in its order. -/
inductive ConfigCheck
  | kAtLeastOne
  | cwAtLeastOne
  | seedNonzero
  | seed16Bits
  | tableEntriesInRange
  | tableRow0Col0
  | tableRow0Distribution
deriving DecidableEq, Repr

/-- All the checks, in the order of 00_scope R17. -/
def ConfigCheck.all : List ConfigCheck :=
  [.kAtLeastOne, .cwAtLeastOne, .seedNonzero, .seed16Bits, .tableEntriesInRange, .tableRow0Col0, .tableRow0Distribution]

/-- Row 0 of the table: its first sixteen entries (20_memory R42). -/
def Config.row0 (c : Config) : List Nat := c.table.toList.take 16

/-- What each check of 00_scope R17 asks of a configuration; T1, T2, T3 are those of R13. -/
def Config.passes (c : Config) : ConfigCheck → Bool
  | .kAtLeastOne => decide (1 ≤ c.k)
  | .cwAtLeastOne => decide (1 ≤ c.cw)
  | .seedNonzero => decide (c.seed ≠ 0)
  | .seed16Bits => decide (c.seed < 2 ^ 16)
  | .tableEntriesInRange => c.table.toList.all (fun e => decide (e < 4))
  | .tableRow0Col0 => decide (c.table[0] = 0)
  | .tableRow0Distribution =>
      decide (c.row0.count 1 = 14) && decide (c.row0.count 0 = 1) && decide (c.row0.count 3 = 1)

/-- The first check a configuration fails, if it fails one. -/
def Config.firstFailure (c : Config) : Option ConfigCheck :=
  ConfigCheck.all.find? (fun k => !c.passes k)

/-- A configuration is well-formed when all the checks hold (00_scope R17). -/
abbrev Config.WellFormed (c : Config) : Prop := c.firstFailure = none

/-- Every operation is well-formed: the only operand is two bits wide and all four values are legal
(30_encoding R62, R63). -/
def Instr.wellFormed : Instr → Bool
  | .reset => true
  | .fire => true
  | .read _ => true
  | .fireRead _ => true
  | .idle => true

end Sys2Proof
end

