-- ==== Sys2Proof/Machine/State.lean ====
section
/-! DEFINITION. The state of the machine: the block's architectural state, its build-time configuration, and its
pins. Plain data throughout. -/

namespace Sys2Proof.Machine

/-- The machine as the host sees it. `block` is all the state the spec gives (10_state R20); the other fields are the
model's own: the parameters the block was built with, the output bus, the input pins, and whether power-on has been
followed by a `RESET`. -/
structure State where
  /-- The build-time parameters; no operation writes them (00_scope R8 to R13, 10_state R29; log entry 1). -/
  cfg : Config
  /-- The ten registers of 10_state R20. -/
  block : Block cfg.k cfg.cw
  /-- The level of the output bus `RD_DATA` at the last clock edge (44_operations R130, R133; log entry 3). -/
  rdData : BitVec cfg.cw
  /-- A `RESET` has happened since power was applied (10_state R35, 70_reset_and_hazards R165; log entry 4). -/
  live : Bool
  /-- The request words on the input pins at the coming clock edges, the next edge first (30_encoding R60, 44_operations
  R130; log entry 2). -/
  req : List Req
deriving DecidableEq, Repr

/-- Why the machine stops with a fault. -/
inductive Fault
  /-- Raised by `FIRE`, `READ` and `FIRE_READ` before the first `RESET` after power-on, when every item of state is
  unspecified and a model gives them no meaning (10_state R35, 92_eei_decisions D4). SAFE: the model stops. -/
  | beforeReset
deriving DecidableEq, Repr

/-- Why the machine gives an operation no meaning. -/
inductive Refusal
  /-- An operation that has no meaning in the model yet; no arm of `exec` answers it. SAFE: the model stops. -/
  | notModelled (mnemonic : String)
  /-- Raised by every operation when the configuration fails a check of 00_scope R17; names the first such check. SAFE: the
  spec refuses the configuration. -/
  | badConfig (check : ConfigCheck)
deriving DecidableEq, Repr

/-- The machine of a configuration right after `RESET`, with the bus at the level of a `RESET` edge (44_operations R131,
R133) and no request listed. -/
def State.resetOf (c : Config) : State :=
  { cfg := c, block := Block.atReset c, rdData := 0, live := true, req := [] }

/-- The machine right after reset in the default configuration (10_state R34; log entries 6 and 14). -/
def State.reset : State := State.resetOf Config.default

/-- The machine after power-on and before its first `RESET`, whatever the items hold (10_state R35, 70_reset_and_hazards
R165). -/
def State.powerOn (c : Config) (b : Block c.k c.cw) : State :=
  { cfg := c, block := b, rdData := 0, live := false, req := [] }

end Sys2Proof.Machine
end

