-- ==== Sys2Proof/Machine/Counters.lean ====
section
/-! DEFINITION. The counter space: `CntRead`, `CntWrite` (00_scope R19, 20_memory R41), `COUNT_INC` (41_transition R95)
and the read port `RD_DATA` (44_operations R133). -/

namespace Sys2Proof.Machine

/-- `CntRead(i)`: all the bits of `CNT[i]` (00_scope R19, 20_memory R43). -/
def cntRead {cw : Nat} (cnt : Vector (BitVec cw) 4) (i : CntIdx) : BitVec cw := cnt[i.toNat]'i.isLt

/-- `CntWrite(i, v)`: `CNT[i]` replaced (00_scope R19). -/
def cntWrite {cw : Nat} (cnt : Vector (BitVec cw) 4) (i : CntIdx) (v : BitVec cw) : Vector (BitVec cw) 4 :=
  cnt.set i.toNat v i.isLt

/-- `COUNT_INC(n)`: plus one modulo `2^CW` (41_transition R95). -/
def countInc {cw : Nat} (cnt : Vector (BitVec cw) 4) (n : MacroState) : Vector (BitVec cw) 4 :=
  cntWrite cnt n (cntRead cnt n + 1)

/-- The bus `RD_DATA` at an edge: the counter read before the edge, 0 where no read is performed (44_operations R133; the
spec's decision D16). -/
def rdDataBus {cw : Nat} (cnt : Vector (BitVec cw) 4) (read : Option CntIdx) : BitVec cw :=
  match read with
  | some i => cntRead cnt i
  | none => 0

end Sys2Proof.Machine
end

