-- ==== Sys2Proof/Machine/Transition.lean ====
section
/-! DEFINITION. The transition engine: `LOOKUP` and `ADVANCE` (41_transition). -/

namespace Sys2Proof.Machine

/-- The entry of `TABLE` (30_encoding R67, R68): two bits, used as it stands. Entries above 3 are refused by the
configuration check T1 (00_scope R13). -/
def tableEntry (c : Config) (row : MacroState) (draw : Draw) : MacroState :=
  BitVec.ofNat 2 (c.table[(tableAddr row draw).toNat]'(tableAddr row draw).isLt)

/-- The entry of the steady table: the next macro-state modulo 4, whatever the draw (00_scope R14, 30_encoding R69). -/
def steadyEntry (row : MacroState) (_draw : Draw) : MacroState := row + 1

/-- `RomRead`: the entry of the table that `MODE` selects (00_scope R12, R19). -/
def romRead (c : Config) (row : MacroState) (draw : Draw) : MacroState :=
  match c.mode with
  | .stutter => tableEntry c row draw
  | .steady => steadyEntry row draw

/-- `LOOKUP` (41_transition R93, R94). -/
def lookup (c : Config) (row : MacroState) (draw : Draw) : MacroState := romRead c row draw

/-- What `ADVANCE` answers (41_transition R100): the new packed state, `transitioned`, and the macro-state landed on. -/
structure Advanced (k : Nat) where
  state : BitVec (k + 2)
  transitioned : Bool
  landed : Option MacroState
deriving DecidableEq, Repr

/-- `ADVANCE` as a pure function of the packed state and the draw (41_transition R90, R100); total for every `K`. -/
def advance (c : Config) (st : BitVec (c.k + 2)) (draw : Draw) : Advanced c.k :=
  let s1 := nextPacked c.k st
  if transitionedBy c.k s1 then
    let next := lookup c (rowOf c.k s1) draw
    { state := landOn c.k next, transitioned := true, landed := some next }
  else
    { state := s1.setWidth (c.k + 2), transitioned := false, landed := none }

/-- The counters after `ADVANCE`: the one landed on incremented, none without a transition (41_transition R90, R95,
R100). -/
def countLanded {cw : Nat} (cnt : Vector (BitVec cw) 4) (landed : Option MacroState) : Vector (BitVec cw) 4 :=
  match landed with
  | some n => countInc cnt n
  | none => cnt

end Sys2Proof.Machine
end

