-- ==== Sys2Proof/Machine/Ops.lean ====
section
/-! DEFINITION. The named operations over the block and over the machine's state: the micro-operations as updates of
the block (30_encoding R74), the two checks every operation stands behind, and the sampling of the request pins. The
block takes no exception and returns from none (60_exceptions R145, R151), so there is no operation for either. -/

namespace Sys2Proof.Machine

/-- The block with another shift register. -/
def Block.withLfsr {k cw : Nat} (b : Block k cw) (x : LfsrWord) : Block k cw := { b with lfsr := x }

/-- The block with another packed state and other counters: what `ADVANCE` may write (41_transition R90). -/
def Block.withWalk {k cw : Nat} (b : Block k cw) (st : BitVec (k + 2)) (cnt : Vector (BitVec cw) 4) : Block k cw :=
  { b with state := st, cnt := cnt }

/-- The block with other outputs: what `DRIVE` may write (42_output R105). -/
def Block.withDriven {k cw : Nat} (b : Block k cw) (d : Driven) : Block k cw :=
  { b with tock := d.tock, led := d.led, actA := d.actA, actB := d.actB }

/-- `ADVANCE` on the block (41_transition R90). -/
def Block.advance (c : Config) (draw : Draw) (b : Block c.k c.cw) : Block c.k c.cw :=
  let a := Machine.advance c b.state draw
  b.withWalk a.state (countLanded b.cnt a.landed)

/-- `DRIVE` on the block (42_output R105). -/
def Block.drive {k cw : Nat} (b : Block k cw) : Block k cw := b.withDriven (Machine.drive k b.state b.tock)

/-- A firing whose draw is forced to `d`, the register advancing all the same: `FIRE_WITH d` of 30_encoding R73, and, for
the draw of `NEXT4`, the firing itself. -/
def Block.fireWith (c : Config) (d : Draw) (b : Block c.k c.cw) : Block c.k c.cw :=
  ((b.withLfsr (next4 b.lfsr).2).advance c d).drive

/-- One firing: `NEXT4`, then `ADVANCE` with its draw, then `DRIVE`, in that order (44_operations R132, 20_memory R48). -/
def Block.fire (c : Config) (b : Block c.k c.cw) : Block c.k c.cw := b.fireWith c (next4 b.lfsr).1

/-- `n` firings (30_encoding R73). -/
def Block.fires (c : Config) : Nat → Block c.k c.cw → Block c.k c.cw
  | 0, b => b
  | n + 1, b => Block.fires c n (b.fire c)

/-- Firings with the draws of a list, one after another: band1's "feed a fixed draw sequence" (30_encoding R73, 41_transition
R100). -/
def Block.firesWith (c : Config) : List Draw → Block c.k c.cw → Block c.k c.cw
  | [], b => b
  | d :: ds, b => Block.firesWith c ds (b.fireWith c d)

/-- The state after an edge that leaves the block as `b` and the bus `RD_DATA` at `v`; configuration, `live` and pins kept. -/
def State.afterEdge (s : State) (b : Block s.cfg.k s.cfg.cw) (v : BitVec s.cfg.cw) : State :=
  { s with block := b, rdData := v }

/-- The state with `live` set: a `RESET` has happened. -/
def State.setLive (s : State) : State := { s with live := true }

/-- An ill-formed configuration is given no meaning (00_scope R17; log entry 5). -/
def whenWellFormed (s : State) (k : Host.Outcome State Fault Refusal) : Host.Outcome State Fault Refusal :=
  match s.cfg.firstFailure with
  | some check => .refused (.badConfig check)
  | none => k

/-- Before the first `RESET` a firing and a read are given no meaning (10_state R35; log entry 4). -/
def whenLive (s : State) (k : Host.Outcome State Fault Refusal) : Host.Outcome State Fault Refusal :=
  if s.live then k else .fault .beforeReset

/-- The levels of the three lines `LED`, `ACT_A`, `ACT_B`; none where they are unspecified, before the first `RESET`
(10_state R26, R35). -/
def State.lines (s : State) : Option (Bool × Bool × Bool) :=
  if s.live then some (s.block.led, s.block.actA, s.block.actB) else none

/-- The request word sampled at the next edge (30_encoding R60); with none listed, all five pins are low (log entry 2). -/
def State.nextReq (s : State) : Req := s.req.headD 0

/-- The state with the word of the next edge taken off the list. -/
def State.dropReq (s : State) : State := { s with req := s.req.tail }

end Sys2Proof.Machine
end

