-- ==== Sys2Proof/Machine/Boundary.lean ====
section
/-! DEFINITION. The meanings of the five boundary operations (44_operations). -/

namespace Sys2Proof.Machine

/-- `RESET`: every item to its reset value, `RD_DATA` 0 (44_operations R131, 10_state R34). -/
def execReset (s : State) : Host.Outcome State Fault Refusal :=
  whenWellFormed s (.next ((s.afterEdge (Block.atReset s.cfg) (rdDataBus s.block.cnt none)).setLive))

/-- `FIRE`: one firing, no read (44_operations R132). -/
def execFire (s : State) : Host.Outcome State Fault Refusal :=
  whenWellFormed s (whenLive s (.next (s.afterEdge (s.block.fire s.cfg) (rdDataBus s.block.cnt none))))

/-- `READ i`: the counter on the bus, no state changed (43_counters_read R115, 44_operations R133). -/
def execRead (i : CntIdx) (s : State) : Host.Outcome State Fault Refusal :=
  whenWellFormed s (whenLive s (.next (s.afterEdge s.block (rdDataBus s.block.cnt (some i)))))

/-- `FIRE_READ i`: the read of the counter as it stands before the edge, then the firing (44_operations R134, 20_memory
R54). -/
def execFireRead (i : CntIdx) (s : State) : Host.Outcome State Fault Refusal :=
  whenWellFormed s (whenLive s (.next (s.afterEdge (s.block.fire s.cfg) (rdDataBus s.block.cnt (some i)))))

/-- `IDLE`: no state changes, `RD_DATA` 0 (44_operations R135). -/
def execIdle (s : State) : Host.Outcome State Fault Refusal :=
  whenWellFormed s (.next (s.afterEdge s.block (rdDataBus s.block.cnt none)))

end Sys2Proof.Machine
end

