-- ==== Sys2Proof/Machine/Dispatch.lean ====
section
/-! DEFINITION. One arm for each operation. -/

namespace Sys2Proof.Machine

def exec (i : Instr) (s : State) : Host.Outcome State Fault Refusal :=
  match i with
  | .reset => Sys2Proof.Machine.execReset s
  | .fire => Sys2Proof.Machine.execFire s
  | .read idx => Sys2Proof.Machine.execRead idx s
  | .fireRead idx => Sys2Proof.Machine.execFireRead idx s
  | .idle => Sys2Proof.Machine.execIdle s

end Sys2Proof.Machine
end

