-- ==== Sys2Proof/Machine/Step.lean ====
section
/-! DEFINITION. One step: one rising edge of `CLK` (30_encoding R60). -/

namespace Sys2Proof.Machine

/-- One clock edge: the request word on the pins is decoded and its operation performed; the next edge samples the word
after it (30_encoding R60, R61). -/
def step (s : State) : Host.Outcome State Fault Refusal :=
  exec (decodeReq s.nextReq) s.dropReq

/-- The state with a request word on the pins at the next edge; the words of later edges stay (log entry 15). -/
def State.withFetchWord (s : State) (nbits w : Nat) : State :=
  { s with req := BitVec.ofNat 5 (w % 2 ^ nbits) :: s.req.tail }

end Sys2Proof.Machine
end

