-- ==== Sys2Proof/Machine/Runs.lean ====
section
/-! DEFINITION. Operations one after another, in the one total order of 20_memory R49, and the reader's four reads with the
other agents' operations between them. -/

namespace Sys2Proof

open Machine

/-- The operations of a list one after another, in the one total order of 20_memory R49, up to the first stop. -/
def runOps : List Instr → State → Host.Outcome State Fault Refusal
  | [], s => .next s
  | i :: is, s =>
    match exec i s with
    | .next t => runOps is t
    | .fault f => .fault f
    | .refused r => .refused r

namespace Machine

/-- What follows an outcome that goes on; a stop stays as it is. -/
def andThen {α β : Type} (o : Host.Outcome α Fault Refusal) (k : α → Host.Outcome β Fault Refusal) :
    Host.Outcome β Fault Refusal :=
  match o with
  | .next a => k a
  | .fault f => .fault f
  | .refused r => .refused r

/-- The operations that fall between the four reads of a `SNAPSHOT`, any number of them in each of the three places
(20_memory R51, 43_counters_read R116). Where none are given the reads fall on consecutive edges: DESIGN CHOICE of the
model (log entry 25), since the spec fixes no spacing. -/
structure Gaps where
  afterRead0 : List Instr := []
  afterRead1 : List Instr := []
  afterRead2 : List Instr := []
deriving DecidableEq, Repr

/-- `SNAPSHOT`: the four reads in ascending order (43_counters_read R116; the order is the spec's decision D22), with what
falls between them. -/
def snapshotOps (g : Gaps) : List Instr :=
  .read 0#2 :: g.afterRead0 ++ .read 1#2 :: g.afterRead1 ++ .read 2#2 :: g.afterRead2 ++ [.read 3#2]

end Machine

end Sys2Proof
end

