-- ==== Sys2Proof/Machine/Reporter.lean ====
section
/-! DEFINITION. The Reporter's consumer contract (43_counters_read R117 to R119): host behaviour, outside the block. When
the reader takes its snapshot, what it computes from the four values, and the line it sends. Nothing in the block depends
on it. -/

namespace Sys2Proof.Machine

/-- The four values a reader holds after one `SNAPSHOT` (43_counters_read R116). -/
structure Snapshot (cw : Nat) where
  c0 : BitVec cw
  c1 : BitVec cw
  c2 : BitVec cw
  c3 : BitVec cw
deriving DecidableEq, Repr

/-- `total = c0 + c1 + c2 + c3`, at `CW + 2` bits (43_counters_read R117). -/
def Snapshot.total {cw : Nat} (v : Snapshot cw) : BitVec (cw + 2) :=
  v.c0.setWidth (cw + 2) + v.c1.setWidth (cw + 2) + v.c2.setWidth (cw + 2) + v.c3.setWidth (cw + 2)

/-- `ratio = 4 * c0 / total`, exactly (43_counters_read R117, R118); none where `total = 0`, for which the rule of the line is
the reader's policy (R119). -/
def Snapshot.ratio {cw : Nat} (v : Snapshot cw) : Option ℚ :=
  if v.total = 0 then none else some ((4 * v.c0.toNat : ℚ) / v.total.toNat)

/-- `4 * c0 / total` rounded to the nearest thousandth, counted in thousandths (43_counters_read R118). Which way a tie goes
is a free value. -/
def ratioThousandths (c0 total : Nat) : Nat :=
  let q := 4000 * c0 / total
  let r := 4000 * c0 % total
  if 2 * r < total then q
  else if total < 2 * r then q + 1
  else if Config.ratioTieUp c0 total then q + 1
  else q

/-- An unsigned decimal number without padding, in ASCII (43_counters_read R118). -/
def decimalText (n : Nat) : List Byte := (Nat.toDigits 10 n).map (fun ch => BitVec.ofNat 8 ch.toNat)

/-- The ASCII digit of a number below ten. -/
def digitText (n : Nat) : Byte := BitVec.ofNat 8 (0x30 + n)

/-- A ratio in thousandths with exactly three digits after the point (43_counters_read R118). -/
def ratioText (m : Nat) : List Byte :=
  decimalText (m / 1000) ++ [0x2E#8, digitText (m / 100 % 10), digitText (m / 10 % 10), digitText (m % 10)]

/-- The status line: ratio, four counts, total, single spaces between, carriage return and line feed at the end
(43_counters_read R118). -/
def statusLine {cw : Nat} (v : Snapshot cw) : List Byte :=
  ratioText (ratioThousandths v.c0.toNat v.total.toNat) ++ [0x20#8] ++
    decimalText v.c0.toNat ++ [0x20#8] ++ decimalText v.c1.toNat ++ [0x20#8] ++
    decimalText v.c2.toNat ++ [0x20#8] ++ decimalText v.c3.toNat ++ [0x20#8] ++
    decimalText v.total.toNat ++ [0x0D#8, 0x0A#8]

/-- `ZERO_TOTAL_POLICY` (43_counters_read R119, 92_eei_decisions D23). -/
inductive ZeroTotalPolicy
  | skip
  | noDataLine
  | printNan
deriving DecidableEq, Repr

/-- The line for a snapshot, if the reader sends one: the policy's where `total = 0` (43_counters_read R119), else the status
line. The texts of the two policies that send a line are free values. -/
def reportLine {cw : Nat} (policy : ZeroTotalPolicy) (v : Snapshot cw) : Option (List Byte) :=
  if v.total = 0 then
    match policy with
    | .skip => none
    | .noDataLine => some Config.noDataLine
    | .printNan => some Config.nanLine
  else some (statusLine v)

/-- What a `SNAPSHOT` ends in: the machine after the fourth read, and the four values read. -/
structure Taken (cw : Nat) where
  state : State
  values : Snapshot cw
deriving DecidableEq, Repr

/-- The reader's `SNAPSHOT`: each value is the bus at the edge of its own read (43_counters_read R115, R116). No operation
changes the configuration, so the bus has the same width at the four edges and `setWidth` keeps it. -/
def takeSnapshot (g : Gaps) (s : State) : Host.Outcome (Taken s.cfg.cw) Fault Refusal :=
  andThen (exec (.read 0#2) s) fun r0 =>
  andThen (runOps g.afterRead0 r0) fun a1 =>
  andThen (exec (.read 1#2) a1) fun r1 =>
  andThen (runOps g.afterRead1 r1) fun a2 =>
  andThen (exec (.read 2#2) a2) fun r2 =>
  andThen (runOps g.afterRead2 r2) fun a3 =>
  andThen (exec (.read 3#2) a3) fun r3 =>
  .next
    { state := r3
      values :=
        { c0 := r0.rdData.setWidth s.cfg.cw
          c1 := r1.rdData.setWidth s.cfg.cw
          c2 := r2.rdData.setWidth s.cfg.cw
          c3 := r3.rdData.setWidth s.cfg.cw } }

/-- What a wake ends in: the machine, the snapshot where one was taken, the line where one is sent. -/
structure WakeEnd (cw : Nat) where
  state : State
  values : Option (Snapshot cw)
  line : Option (List Byte)
deriving DecidableEq, Repr

/-- One wake of the reader (43_counters_read R117): a snapshot and its line if and only if the transport reports a ready
session at this wake; without one the reader performs no operation. -/
def performWake (policy : ZeroTotalPolicy) (sessionReady : Bool) (g : Gaps) (s : State) :
    Host.Outcome (WakeEnd s.cfg.cw) Fault Refusal :=
  if sessionReady then
    andThen (takeSnapshot g s) fun e =>
      .next { state := e.state, values := some e.values, line := reportLine policy e.values }
  else .next { state := s, values := none, line := none }

/-- A wake in a run of the machine: the operations since the last wake, zero, one or many firings among them, the readiness
found at this wake, and what falls between the reads (43_counters_read R117; log entry 26). -/
structure Wake where
  before : List Instr
  sessionReady : Bool
  gaps : Gaps
deriving DecidableEq, Repr

/-- The operations a wake and what precedes it put into the total order. -/
def Wake.ops (w : Wake) : List Instr := w.before ++ if w.sessionReady then snapshotOps w.gaps else []

/-- The machine after a number of wakes, and the lines sent, first to last. -/
structure Reports where
  state : State
  lines : List (List Byte)
deriving DecidableEq, Repr

/-- Wake after wake, each with its own check of readiness (43_counters_read R117). -/
def runWakes (policy : ZeroTotalPolicy) : List Wake → State → Host.Outcome Reports Fault Refusal
  | [], s => .next { state := s, lines := [] }
  | w :: ws, s =>
    andThen (runOps w.before s) fun a =>
    andThen (performWake policy w.sessionReady w.gaps a) fun e =>
    andThen (runWakes policy ws e.state) fun p =>
    .next { state := p.state, lines := e.line.toList ++ p.lines }

end Sys2Proof.Machine
end

