-- ==== Sys2Proof/Machine/Trace.lean ====
section
/-! DEFINITION. The trace notation and its pseudo-operations (30_encoding R72, R73). `FIRE_WITH d` is no request the
block accepts: it is `Block.fireWith`. -/

namespace Sys2Proof.Machine

/-- A line of the trace notation: an operation (30_encoding R72) or a pseudo-operation (R73). The four reads of `SNAPSHOT` may
fall on edges that are not consecutive, so it carries what falls between them. -/
inductive TraceLine
  | op (i : Instr)
  | snapshot (g : Gaps := {})
  | fires (n : Nat)
  | wait (n : Nat)
deriving DecidableEq, Repr

/-- The operations a line stands for (30_encoding R73, 43_counters_read R116). DESIGN CHOICE of the model: of `FIRE n`'s "at
least one edge without `FIRE`" the expansion takes exactly one, an `IDLE` (log entry 23), and the reads of a `SNAPSHOT`
written without gaps take four consecutive edges, where the spec fixes no spacing (log entry 25). -/
def TraceLine.expand : TraceLine → List Instr
  | .op i => [i]
  | .snapshot g => snapshotOps g
  | .fires n => (List.replicate n [Instr.fire, Instr.idle]).flatten
  | .wait n => List.replicate n .idle

/-- The request words of a trace, one for each clock edge (30_encoding R72). -/
def traceWords (ls : List TraceLine) : List Req := (ls.flatMap TraceLine.expand).map encode

/-- The text of an operation in the trace notation (30_encoding R72). -/
def traceText : Instr → String
  | .reset => "RESET"
  | .fire => "FIRE"
  | .read i => "READ " ++ toString i.toNat
  | .fireRead i => "FIRE_READ " ++ toString i.toNat
  | .idle => "IDLE"

/-- The machine with a trace on its pins from the next edge on. -/
def State.withTrace (s : State) (ls : List TraceLine) : State := { s with req := traceWords ls }

end Sys2Proof.Machine
end

