-- ==== Sys2Proof/Safety.lean ====
section
/-! DEFINITION. The terms the statements use: when an operation executes, the invariants of 10_state R33, and what a run
of operations counts. -/

namespace Sys2Proof

open Machine

/-- An operation executes normally: the configuration is well-formed (00_scope R17) and a `RESET` has happened (10_state
R35). -/
def Ready (s : State) : Prop := s.cfg.WellFormed ∧ s.live = true

/-- What 10_state R33 (a), (c), (d), (e) say of the block's registers between operations. -/
structure BlockInv (c : Config) (b : Block c.k c.cw) : Prop where
  /-- R33 (a): the register is not in the absorbing state. -/
  lfsr_nonzero : b.lfsr ≠ 0
  /-- R33 (c), 42_output R112: one of the three pin combinations. -/
  pins_legal : (b.led, b.actA, b.actB) ∈ [(false, false, false), (true, true, false), (true, false, true)]
  /-- R33 (e): a lit indicator goes with the actuator that `TOCK` selects. -/
  struck : b.led = true → b.actA = b.tock ∧ b.actB = !b.tock
  /-- R33 (d): a lit indicator means macro-state 0, substep 0. -/
  led_at_origin : b.led = true → b.state = 0
  /-- R33 (d): at macro-state 0, substep 0 the indicator is lit, unless no firing has happened since reset. -/
  origin_lit : b.state = 0 → b.led = true ∨ b = Block.atReset c

/-- The invariant of the machine: after the first `RESET` the block is as 10_state R33 says. -/
def Inv (s : State) : Prop := s.live = true → BlockInv s.cfg s.block

/-- The operation performs a firing. -/
def Instr.firing : Instr → Bool
  | .reset => false
  | .fire => true
  | .read _ => false
  | .fireRead _ => true
  | .idle => false

/-- What is left of an operation when the reader agent is taken away: its reads are dropped, and so are the idle edges
(30_encoding R72). -/
def Instr.withoutReader : Instr → Option Instr
  | .reset => some .reset
  | .fire => some .fire
  | .read _ => none
  | .fireRead _ => some .fire
  | .idle => none

/-- How many firings a list of operations performs. -/
def firings (ops : List Instr) : Nat := ops.countP Instr.firing

/-- The sum of the four counters, as a number. -/
def Machine.Block.total {k cw : Nat} (b : Block k cw) : Nat :=
  (cntRead b.cnt 0).toNat + (cntRead b.cnt 1).toNat + (cntRead b.cnt 2).toNat + (cntRead b.cnt 3).toNat

/-- How many of the next `n` firings are tick events (42_output R106). -/
def ticksIn (c : Config) : Nat → Block c.k c.cw → Nat
  | 0, _ => 0
  | n + 1, b => (if (b.fire c).led then 1 else 0) + ticksIn c n (b.fire c)

/-- How many of the next `n` firings are transitions (41_transition R90). -/
def transitionsIn (c : Config) : Nat → Block c.k c.cw → Nat
  | 0, _ => 0
  | n + 1, b =>
    (if (Machine.advance c b.state (next4 b.lfsr).1).transitioned then 1 else 0) + transitionsIn c n (b.fire c)

/-- How many of the next `n` firings land on macro-state `i` (10_state R25, 43_counters_read R115). -/
def landingsIn (c : Config) (i : MacroState) : Nat → Block c.k c.cw → Nat
  | 0, _ => 0
  | n + 1, b =>
    (if (Machine.advance c b.state (next4 b.lfsr).1).landed = some i then 1 else 0) + landingsIn c i n (b.fire c)

/-- The timer's strobe is never on two edges in a row (00_scope R16, 70_reset_and_hazards R170): what the host owes. -/
def strobesSpaced : List Instr → Bool
  | [] => true
  | [_] => true
  | i :: j :: is => !(i.firing && j.firing) && strobesSpaced (j :: is)

end Sys2Proof
end

