-- ==== Sys2Proof/Certificates/Slice0/Obligations.lean ====
section
/-! DEFINITION. The statements for the provers, in the order of spec/: encodings, configuration, reset, the generator,
the transition engine, the outputs, the counters, the boundary operations, runs of operations, the reader. -/

open Sys2Proof Sys2Proof.Machine

/-! ### Encodings and steps (30_encoding) -/

/-- 95_test_vectors section 2.9 and the examples of 44_operations: a few request words, written out bit by bit, select the
operations they stand for. -/
def Obligations.RequestWordsDecode : Prop :=
  decodeReq 0b10000#5 = .reset ∧ decodeReq 0b11101#5 = .reset ∧ decodeReq 0b01011#5 = .fire ∧
    decodeReq 0b00110#5 = .read 2#2 ∧ decodeReq 0b01101#5 = .fireRead 1#2 ∧ decodeReq 0b00011#5 = .idle

/-- 30_encoding section 1 (R61 to R63, R72): decoding a word gives an operation exactly when the word agrees with the
operation's canonical word on every bit that is not ignored; so the canonical word decodes to its operation, whatever the
ignored bits. That a listing gives each request word in one byte, and that the bytes after it are kept, is the model's choice
(log entry 15), for the spec has no bytes (R43). -/
def Obligations.DecodeInvertsEncode : Prop :=
  (∀ (i : Instr) (w : Req), decodeReq w = i ↔ w &&& careMask i = encode i) ∧
    ∀ (i : Instr) (rest : List Byte), decodeBytes (encodeByte i :: rest) = .ok (i, rest)

/-- 30_encoding section 1 (R60, R61): a step performs the operation of the request word on the pins, and the next edge samples
the word listed after it; with none listed the edge is idle, which is the model's choice (log entry 2). -/
def Obligations.StepRunsDecodedInstruction : Prop :=
  (∀ (s : State) (w : Req) (ws : List Req), s.req = w :: ws → step s = exec (decodeReq w) { s with req := ws }) ∧
    ∀ s : State, s.req = [] → step s = exec .idle s

/-- 20_memory section 4 (R49) and 30_encoding section 1: as many steps as there are request words listed perform their
operations in the order of the list. -/
def Obligations.StepsRunTheRequestsInOrder : Prop :=
  ∀ s : State, Host.Core.run core s.req.length s = runOps (s.req.map decodeReq) { s with req := [] }

/-- 30_encoding section 7 (R73): `FIRE n` performs `n` firings, never on two edges in a row, and no reset. -/
def Obligations.FireManyExpandsToSpacedFirings : Prop :=
  ∀ n : Nat, firings (TraceLine.fires n).expand = n ∧ strobesSpaced (TraceLine.fires n).expand = true ∧
    Instr.reset ∉ (TraceLine.fires n).expand

/-! ### Configuration (00_scope) -/

/-- 00_scope section 4 (R8 to R10, R13, R17): what a well-formed configuration is, in numbers. -/
def Obligations.WellFormedConfigurationMeans : Prop :=
  ∀ c : Config, c.WellFormed ↔
    1 ≤ c.k ∧ 1 ≤ c.cw ∧ c.seed ≠ 0 ∧ c.seed < 65536 ∧ (∀ a : Fin 64, c.table[a] < 4) ∧ c.table[0] = 0 ∧
      ((List.finRange 16).countP fun d => c.table[d.val] = 1) = 14 ∧
      ((List.finRange 16).countP fun d => c.table[d.val] = 0) = 1 ∧
      ((List.finRange 16).countP fun d => c.table[d.val] = 3) = 1

/-- 00_scope section 4 (R17): an ill-formed configuration gives no operation a meaning, and the refusal names a check it
fails; a well-formed one is never refused (the refusal is the model's form of it, log entry 5). -/
def Obligations.IllFormedConfigurationIsRefused : Prop :=
  ∀ (i : Instr) (s : State),
    (¬ s.cfg.WellFormed → ∃ check, exec i s = .refused (.badConfig check) ∧ s.cfg.passes check = false) ∧
      (s.cfg.WellFormed → ∀ r, exec i s ≠ .refused r)

/-- 10_state section 3 (R28, R29): no operation changes the configuration or the words of later edges, and only `RESET`
makes the machine live (log entries 1, 2, 4); that an idle edge before the first `RESET` goes on is log entry 20. -/
def Obligations.OperationsKeepConfigurationAndPins : Prop :=
  ∀ (i : Instr) (s t : State), exec i s = .next t →
    t.cfg = s.cfg ∧ t.req = s.req ∧ (t.live = true ↔ s.live = true ∨ i = .reset)

/-! ### Reset (10_state section 7, 44_operations section 2, 70_reset_and_hazards) -/

/-- 44_operations section 2 (R131), 10_state section 7 (R34): `RESET` writes every item, from any state; the values of `TOCK`
and of the pins are the spec's decisions D12 and D13 (log entry 7). -/
def Obligations.ResetWritesEveryItem : Prop :=
  ∀ s : State, s.cfg.WellFormed →
    exec .reset s = .next { s with
      block := { lfsr := BitVec.ofNat 16 s.cfg.seed, state := 0, tock := false, cnt := #v[0, 0, 0, 0],
                 led := false, actA := false, actB := false }
      rdData := 0
      live := true }

/-- 70_reset_and_hazards section 1 (R168; the spec's decision D4): after a `RESET` the run is the same whatever came before. -/
def Obligations.ResetForgetsThePast : Prop :=
  ∀ (s s' : State) (ops : List Instr), s.cfg = s'.cfg → s.req = s'.req →
    runOps (.reset :: ops) s = runOps (.reset :: ops) s'

/-- 10_state section 7 (R35; the spec's decision D4, log entry 4): before the first `RESET` a firing and a read have no
meaning, the lines show nothing, and `RESET` gives the reset state. That an idle edge completes there and keeps what the items
hold is the model's inference (DEDUCED, log entry 20), and that there is data to keep and no line level is log entry 17: the
spec says nothing of `IDLE` before the first `RESET`. -/
def Obligations.BeforeTheFirstReset : Prop :=
  ∀ s : State, s.cfg.WellFormed → s.live = false →
    exec .fire s = .fault .beforeReset ∧ (∀ i, exec (.read i) s = .fault .beforeReset) ∧
      (∀ i, exec (.fireRead i) s = .fault .beforeReset) ∧ s.lines = none ∧
      exec .idle s = .next { s with rdData := 0 } ∧
      exec .reset s = .next { State.resetOf s.cfg with req := s.req }

/-- 10_state section 6 (R33): the invariant holds right after reset, in the default configuration and in every well-formed
one. -/
def Obligations.InvariantHoldsAtReset : Prop :=
  Inv State.reset ∧ ∀ c : Config, c.WellFormed → Inv (State.resetOf c)

/-- 10_state section 6 (R33 (a), (c), (d), (e)): every step keeps the invariant. -/
def Obligations.InvariantKeptByStep : Prop :=
  ∀ s t : State, Inv s → step s = .next t → Inv t

/-- 41_transition section 2 (R97), 70_reset_and_hazards section 1 (R167): the first `2^K - 1` firings after reset only count
the sub-step, show nothing and land nowhere; the next one looks up row 0. -/
def Obligations.FirstFiringsAfterReset : Prop :=
  ∀ (c : Config) (n : Nat), c.WellFormed → n < 2 ^ c.k →
    (Block.fires c n (Block.atReset c)).state.toNat = n ∧ (Block.fires c n (Block.atReset c)).total = 0 ∧
      (Block.fires c n (Block.atReset c)).led = false ∧
      (n + 1 = 2 ^ c.k →
        (Block.fires c (n + 1) (Block.atReset c)).state.toNat =
          (lookup c 0 (next4 (Block.fires c n (Block.atReset c)).lfsr).1).toNat * 2 ^ c.k)

/-! ### The generator (40_lfsr) -/

/-- R80: `LFSR_STEP` answers bit 0 and shifts right by one, with the tap mask where that bit was 1; bit by bit as the rule
lists it. -/
def Obligations.LfsrStepBitByBit : Prop :=
  ∀ x : LfsrWord, (lfsrStep x).1 = x[0] ∧
    (lfsrStep x).2 = (if x[0] = true then (x >>> 1) ^^^ 0xB400#16 else x >>> 1) ∧
    (lfsrStep x).2[15] = x[0] ∧ (lfsrStep x).2[14] = x[15] ∧ (lfsrStep x).2[13] = (x[14] ^^ x[0]) ∧
    (lfsrStep x).2[12] = (x[13] ^^ x[0]) ∧ (lfsrStep x).2[11] = x[12] ∧ (lfsrStep x).2[10] = (x[11] ^^ x[0]) ∧
    ∀ j, j ≤ 9 → (lfsrStep x).2.getLsbD j = x.getLsbD (j + 1)

/-- R81: `NEXT4` steps the register four times and assembles the four extracted bits, the first the most significant; it is
performed exactly once in every firing, so `n` firings are `4 n` steps of the register, whatever the rest of the block does.
That the extracted bit is the `lsb` is also the spec's decision D11 (log entry 9). -/
def Obligations.Next4IsFourStepsOncePerFiring : Prop :=
  (∀ x x1 x2 x3 x4 : LfsrWord, ∀ b1 b2 b3 b4 : Bool, lfsrStep x = (b1, x1) → lfsrStep x1 = (b2, x2) →
    lfsrStep x2 = (b3, x3) → lfsrStep x3 = (b4, x4) →
    (next4 x).2 = x4 ∧ (next4 x).1.toNat = 8 * b1.toNat + 4 * b2.toNat + 2 * b3.toNat + b4.toNat) ∧
  ∀ (c : Config) (b : Block c.k c.cw) (n : Nat),
    (Block.fires c n b).lfsr = (fun y => (lfsrStep y).2)^[4 * n] b.lfsr

/-- 40_lfsr section 2 (R82, derived in the spec): a step takes the register to zero only from zero. -/
def Obligations.NonzeroRegisterStaysNonzero : Prop :=
  (∀ x : LfsrWord, (lfsrStep x).2 = 0 ↔ x = 0) ∧
    ∀ (c : Config) (b : Block c.k c.cw) (n : Nat), (Block.fires c n b).lfsr = 0 ↔ b.lfsr = 0

/-- 40_lfsr section 2 (R83), 00_scope section 4 (R17): zero is absorbing, every draw is then 0 for ever, and it is kept out by refusing a zero seed; that the
refusal is `badConfig`, answered by every operation, is the model's form of R17 (DESIGN CHOICE, log entry 5). -/
def Obligations.ZeroRegisterIsAbsorbing : Prop :=
  lfsrStep 0 = (false, 0) ∧
    (∀ (c : Config) (b : Block c.k c.cw) (n : Nat), b.lfsr = 0 →
      (Block.fires c n b).lfsr = 0 ∧ (next4 (Block.fires c n b).lfsr).1 = 0) ∧
    (∀ (i : Instr) (s : State), s.cfg.seed = 0 → ∃ check, exec i s = .refused (.badConfig check)) ∧
    ∀ x : LfsrWord, x ≠ 0 → (lfsrStep x).2 ≠ 0

/-- 40_lfsr section 2 (R84, derived in the spec): the draw is the low four bits of the register, reversed. -/
def Obligations.DrawIsReversedLowNibble : Prop :=
  ∀ x : LfsrWord, (next4 x).1 = rev4 (x.extractLsb' 0 4) ∧
    (next4 x).1[3] = x[0] ∧ (next4 x).1[2] = x[1] ∧ (next4 x).1[1] = x[2] ∧ (next4 x).1[0] = x[3]

/-- 40_lfsr section 2 (R85, derived in the spec): the step is a bijection, and the old register is recovered from the new
one as the rule writes it. -/
def Obligations.LfsrStepIsBijective : Prop :=
  Function.Bijective (fun x : LfsrWord => (lfsrStep x).2) ∧
    ∀ x : LfsrWord, x[0] = (lfsrStep x).2[15] ∧
      ∀ j, j ≤ 14 → x.getLsbD (j + 1) =
        ((lfsrStep x).2.getLsbD j ^^ ((0xB400#16).getLsbD j && (lfsrStep x).2[15]))

/-- 40_lfsr section 2 (R85, derived in the spec): from 0xACE1 the step returns to 0xACE1 after exactly 65535 steps and not
sooner, and every nonzero register lies on that cycle. -/
def Obligations.LfsrPeriodIsMaximal : Prop :=
  (fun y : LfsrWord => (lfsrStep y).2)^[65535] 0xACE1#16 = 0xACE1#16 ∧
    (∀ n, 0 < n → n < 65535 → (fun y : LfsrWord => (lfsrStep y).2)^[n] 0xACE1#16 ≠ 0xACE1#16) ∧
    ∀ x : LfsrWord, x ≠ 0 → ∃ n, n < 65535 ∧ (fun y : LfsrWord => (lfsrStep y).2)^[n] 0xACE1#16 = x

/-! ### The transition engine (30_encoding, 41_transition) -/

/-- R64: the fields of the packed state, their packing, and the one value that is macro-state 0, substep 0. -/
def Obligations.PackedStateFields : Prop :=
  ∀ (k : Nat) (st : BitVec (k + 2)),
    (macroIndex k st).toNat = st.toNat / 2 ^ k ∧ (substep k st).toNat = st.toNat % 2 ^ k ∧
      pack k (macroIndex k st) (substep k st) = st ∧
      (∀ (m : MacroState) (sub : BitVec k), (pack k m sub).toNat = m.toNat * 2 ^ k + sub.toNat) ∧
      (st = 0 ↔ macroIndex k st = 0 ∧ substep k st = 0)

/-- 41_transition section 2 (R92, R96, derived in the spec): where the sub-step wraps, the row is in range and is the
macro-state before the increment, for every `K`. -/
def Obligations.RowIsTheMacroStateLeft : Prop :=
  ∀ (k : Nat) (st : BitVec (k + 2)), (st.toNat + 1) % 2 ^ k = 0 →
    1 ≤ (nextPacked k st).toNat / 2 ^ k ∧ (nextPacked k st).toNat / 2 ^ k ≤ 4 ∧
      (rowOf k (nextPacked k st)).toNat = (nextPacked k st).toNat / 2 ^ k - 1 ∧
      rowOf k (nextPacked k st) = macroIndex k st

/-- R90: `ADVANCE`, both cases, in numbers, with the counter it increments and what it leaves alone. -/
def Obligations.AdvanceFollowsTheSteps : Prop :=
  ∀ (c : Config) (b : Block c.k c.cw) (draw : Draw),
    ((b.state.toNat + 1) % 2 ^ c.k ≠ 0 →
      (advance c b.state draw).transitioned = false ∧
        (b.advance c draw).state.toNat = b.state.toNat + 1 ∧ (b.advance c draw).cnt = b.cnt) ∧
    ((b.state.toNat + 1) % 2 ^ c.k = 0 →
      ∃ row next : MacroState, row.toNat = (b.state.toNat + 1) / 2 ^ c.k - 1 ∧ next = lookup c row draw ∧
        (advance c b.state draw).transitioned = true ∧
        (b.advance c draw).state.toNat = next.toNat * 2 ^ c.k ∧
        (∀ j, cntRead (b.advance c draw).cnt j = if j = next then cntRead b.cnt j + 1 else cntRead b.cnt j)) ∧
    (b.advance c draw).lfsr = b.lfsr ∧ (b.advance c draw).tock = b.tock ∧ (b.advance c draw).led = b.led ∧
      (b.advance c draw).actA = b.actA ∧ (b.advance c draw).actB = b.actB

/-- 41_transition section 1 (R93), 30_encoding section 3 (R67): in `MODE = STUTTER` the looked-up state is the entry of `TABLE` at address `16 * row + draw`. -/
def Obligations.StutterLookupReadsTheTable : Prop :=
  ∀ (c : Config) (row : MacroState) (draw : Draw), c.WellFormed → c.mode = .stutter →
    c.table.toList[16 * row.toNat + draw.toNat]? = some (lookup c row draw).toNat

/-- R95 without its decision on the width (derived: 41_transition section 1, the spec's decision D6): `COUNT_INC` adds one
modulo `2^CW` to its own counter and leaves the others. -/
def Obligations.CountIncWraps : Prop :=
  ∀ (cw : Nat) (cnt : Vector (BitVec cw) 4) (n j : MacroState),
    (cntRead (countInc cnt n) j).toNat =
      if j = n then ((cntRead cnt n).toNat + 1) % 2 ^ cw else (cntRead cnt j).toNat

/-- 41_transition section 2 (R99, derived in the spec): the draw matters only in a transition of `MODE = STUTTER`. -/
def Obligations.DrawMattersOnlyInStutterTransitions : Prop :=
  ∀ (c : Config) (st : BitVec (c.k + 2)) (d d' : Draw),
    c.mode = .steady ∨ (st.toNat + 1) % 2 ^ c.k ≠ 0 → advance c st d = advance c st d'

/-- R98: a self-loop is a transition: the firing completes, the sub-step returns to 0 and the counter of the state is
incremented. -/
def Obligations.SelfLoopIsATransition : Prop :=
  ∀ s : State, Ready s → (s.block.state.toNat + 1) % 2 ^ s.cfg.k = 0 →
    lookup s.cfg (macroIndex s.cfg.k s.block.state) (next4 s.block.lfsr).1 = macroIndex s.cfg.k s.block.state →
    (advance s.cfg s.block.state (next4 s.block.lfsr).1).transitioned = true ∧
      ∃ b, exec .fire s = .next { s with block := b, rdData := 0 } ∧
        substep s.cfg.k b.state = 0 ∧ macroIndex s.cfg.k b.state = macroIndex s.cfg.k s.block.state ∧
        ∀ j, cntRead b.cnt j =
          if j = macroIndex s.cfg.k s.block.state then cntRead s.block.cnt j + 1 else cntRead s.block.cnt j

/-- 41_transition section 2 (R101, derived in the spec), 10_state section 6 (R33 (f)): transitions happen at fixed firings
whatever the draws and the table, and the counters add up to them modulo `2^CW`. From a block with sub-step 0, `n` firings
make `n / 2^K` transitions. -/
def Obligations.TransitionsHappenAtFixedFirings : Prop :=
  ∀ (c : Config) (b : Block c.k c.cw) (n : Nat),
    (Block.fires c n b).state.toNat % 2 ^ c.k = (b.state.toNat + n) % 2 ^ c.k ∧
      transitionsIn c n b = (b.state.toNat % 2 ^ c.k + n) / 2 ^ c.k ∧
      (Block.fires c n b).total % 2 ^ c.cw = (b.total + transitionsIn c n b) % 2 ^ c.cw

/-- 41_transition section 2 (R102, derived in the spec): in `MODE = STEADY` the packed state counts the firings modulo
`4 * 2^K`, so macro-state 0, substep 0 recurs every `4 * 2^K` firings. -/
def Obligations.SteadyWalkCountsFirings : Prop :=
  ∀ (c : Config) (b : Block c.k c.cw) (n : Nat), c.mode = .steady →
    (Block.fires c n b).state.toNat = (b.state.toNat + n) % (4 * 2 ^ c.k)

/-- R103: in `MODE = STUTTER`, of the sixteen draws at macro-state 0 fourteen lead to 1, one to 3, and draw 0 stays; with all
draws 0 from the origin at `K = 1` the state alternates 0 and 1, and every second firing is a tick event that increments
`CNT[0]`. That the default table has the 3 of row 0 at column 15 is also the spec's decision D8 (log entry 6). -/
def Obligations.AllZeroDrawsStayAtTheOrigin : Prop :=
  ∀ c : Config, c.WellFormed → c.mode = .stutter →
    ((List.finRange 16).countP fun d => lookup c 0 (BitVec.ofFin d) = 1) = 14 ∧
    ((List.finRange 16).countP fun d => lookup c 0 (BitVec.ofFin d) = 3) = 1 ∧
    (∀ d : Draw, lookup c 0 d = 0 ↔ d = 0) ∧ lookup Config.default 0 15#4 = 3 ∧
    (c.k = 1 → ∀ (b : Block c.k c.cw) (n : Nat), b.state = 0 →
      (Block.firesWith c (List.replicate n 0) b).state.toNat = n % 2 ∧
        (0 < n → ((Block.firesWith c (List.replicate n 0) b).led = true ↔ n % 2 = 0)) ∧
        (cntRead (Block.firesWith c (List.replicate n 0) b).cnt 0).toNat =
          ((cntRead b.cnt 0).toNat + n / 2) % 2 ^ c.cw)

/-! ### The outputs (42_output) -/

/-- R108: a firing that does not arrive at macro-state 0, substep 0 leaves all three lines low and keeps `TOCK`; and every
firing writes all three lines, so that what they were before does not matter. -/
def Obligations.OtherFiringsLowerThePins : Prop :=
  (∀ s : State, Ready s → (s.block.fire s.cfg).state ≠ 0 →
    ∃ b, exec .fire s = .next { s with block := b, rdData := 0 } ∧
      b.led = false ∧ b.actA = false ∧ b.actB = false ∧ b.tock = s.block.tock) ∧
  ∀ (s : State) (led actA actB : Bool), Ready s →
    ∃ t, exec .fire s = .next t ∧
      exec .fire { s with block := { s.block with led := led, actA := actA, actB := actB } } = .next t

/-- 42_output section 1 (R105, R107): a firing that arrives at macro-state 0, substep 0 lights the indicator, toggles `TOCK`
and strikes exactly one actuator; that new `TOCK = 1` strikes `ACT_A` is the spec's decision D12 (log entry 8). -/
def Obligations.TickFiringStrikesOneActuator : Prop :=
  ∀ s : State, Ready s → (s.block.fire s.cfg).state = 0 →
    ∃ b, exec .fire s = .next { s with block := b, rdData := 0 } ∧
      b.led = true ∧ b.tock = !s.block.tock ∧ b.actA = b.tock ∧ b.actB = !b.tock

/-- 42_output section 1 (R106, derived in the spec): tick events, arrivals at the origin, landings on macro-state 0 and
increments of `CNT[0]` are the same firings. -/
def Obligations.TickEventsAreLandingsOnZero : Prop :=
  ∀ (c : Config) (b : Block c.k c.cw),
    ((b.fire c).led = true ↔ (b.fire c).state = 0) ∧
      ((b.fire c).led = true ↔ (advance c b.state (next4 b.lfsr).1).landed = some 0) ∧
      cntRead (b.fire c).cnt 0 = if (b.fire c).led = true then cntRead b.cnt 0 + 1 else cntRead b.cnt 0

/-- 42_output section 2 (R109, R113, derived in the spec): a pulse lasts exactly one firing: the lines hold over any number
of edges without a firing or a reset, and the next firing writes all three low. -/
def Obligations.PulseLastsOneFiring : Prop :=
  ∀ (s t u : State) (between : List Instr), Ready s → exec .fire s = .next t → t.block.led = true →
    firings between = 0 → Instr.reset ∉ between → runOps between t = .next u →
    u.lines = t.lines ∧ ∃ v, exec .fire u = .next v ∧ v.lines = some (false, false, false)

/-- 42_output section 2 (R110, derived in the spec): `TOCK` counts the tick events modulo 2, and of two consecutive tick
events one strikes one actuator and the other the other. -/
def Obligations.TockAlternates : Prop :=
  (∀ (c : Config) (b : Block c.k c.cw) (n : Nat),
    (Block.fires c n b).tock = (b.tock ^^ decide (ticksIn c n b % 2 = 1))) ∧
  ∀ (c : Config) (b : Block c.k c.cw) (m : Nat), (b.fire c).led = true → ticksIn c m (b.fire c) = 0 →
    ((Block.fires c m (b.fire c)).fire c).led = true →
    ((Block.fires c m (b.fire c)).fire c).actA = (b.fire c).actB ∧
      ((Block.fires c m (b.fire c)).fire c).actB = (b.fire c).actA ∧ (b.fire c).actA ≠ (b.fire c).actB

/-- 42_output section 2 (R111, derived in the spec): two arrivals at the origin are a positive multiple of `2^K` firings apart,
and with draws 0 in `MODE = STUTTER` the next one comes after exactly `2^K`. -/
def Obligations.TickIntervalIsAMultiple : Prop :=
  (∀ (c : Config) (b : Block c.k c.cw) (n : Nat), b.state = 0 → (Block.fires c n b).state = 0 → 2 ^ c.k ∣ n) ∧
  ∀ (c : Config) (b : Block c.k c.cw), c.WellFormed → c.mode = .stutter → b.state = 0 →
    (Block.firesWith c (List.replicate (2 ^ c.k) 0) b).state = 0 ∧
      (Block.firesWith c (List.replicate (2 ^ c.k) 0) b).led = true ∧
      ∀ n, 0 < n → n < 2 ^ c.k → (Block.firesWith c (List.replicate n 0) b).led = false

/-! ### The boundary operations (43_counters_read, 44_operations) -/

/-- R132: a firing is the draw, then the advance with it, then the outputs; it always changes `STATE`, moves a counter only on
a transition and `TOCK` only at a tick event, and rewrites all three pins, whatever they were; nothing else of the machine
changes. -/
def Obligations.FireIsDrawAdvanceDrive : Prop :=
  ∀ s : State, Ready s →
    exec .fire s = .next { s with
      block := (({ s.block with lfsr := (next4 s.block.lfsr).2 } : Block s.cfg.k s.cfg.cw).advance s.cfg
        (next4 s.block.lfsr).1).drive
      rdData := 0 } ∧
    (s.block.fire s.cfg).lfsr = (next4 s.block.lfsr).2 ∧
    (s.block.fire s.cfg).state ≠ s.block.state ∧
    ((advance s.cfg s.block.state (next4 s.block.lfsr).1).transitioned = false →
      (s.block.fire s.cfg).cnt = s.block.cnt) ∧
    ((s.block.fire s.cfg).tock ≠ s.block.tock ↔ (s.block.fire s.cfg).state = 0) ∧
    ∀ led actA actB : Bool,
      Block.fire s.cfg { s.block with led := led, actA := actA, actB := actB } = s.block.fire s.cfg

/-- 41_transition section 1 (R91), 44_operations section 2 (R132): a firing in which the sub-step does not wrap, every item
of the state and the bus written out. -/
def Obligations.FireWithoutTransition : Prop :=
  ∀ s : State, Ready s → (s.block.state.toNat + 1) % 2 ^ s.cfg.k ≠ 0 →
    exec .fire s = .next { s with
      block := { lfsr := (next4 s.block.lfsr).2, state := s.block.state + 1, tock := s.block.tock,
                 cnt := s.block.cnt, led := false, actA := false, actB := false }
      rdData := 0 }

/-- 41_transition section 1 (R92, R95), 42_output section 1 (R107), 44_operations section 2 (R132): a firing in which the
sub-step wraps, every item of the state and the bus written out; `tick` is arrival at macro-state 0, and the actuator that
`TOCK` selects is the spec's decision D12 (log entry 8). -/
def Obligations.FireWithTransition : Prop :=
  ∀ (s : State) (next : MacroState), Ready s → (s.block.state.toNat + 1) % 2 ^ s.cfg.k = 0 →
    next = lookup s.cfg (macroIndex s.cfg.k s.block.state) (next4 s.block.lfsr).1 →
    exec .fire s = .next { s with
      block := { lfsr := (next4 s.block.lfsr).2, state := BitVec.ofNat (s.cfg.k + 2) (next.toNat * 2 ^ s.cfg.k),
                 tock := s.block.tock ^^ decide (next = 0),
                 cnt := s.block.cnt.set next.toNat (s.block.cnt[next.toNat]'next.isLt + 1) next.isLt,
                 led := decide (next = 0), actA := decide (next = 0) && !s.block.tock,
                 actB := decide (next = 0) && s.block.tock }
      rdData := 0 }

/-- R115: a read answers the whole counter, changes no state and may be repeated; a read at the edge of a firing answers the
value before it; and the value is the number of transitions that landed on `i` in all the firings since the reset, modulo
`2^CW`. The order at the edge of a firing is also the spec's decision D15 (log entry 11). -/
def Obligations.ReadReturnsTheCounter : Prop :=
  (∀ (s : State) (i : CntIdx), Ready s →
    exec (.read i) s = .next { s with rdData := s.block.cnt[i.toNat]'i.isLt } ∧
      exec (.read i) { s with rdData := s.block.cnt[i.toNat]'i.isLt } =
        .next { s with rdData := s.block.cnt[i.toNat]'i.isLt } ∧
      ∃ u, exec (.fireRead i) s = .next u ∧ u.rdData.toNat = (s.block.cnt[i.toNat]'i.isLt).toNat) ∧
  ∀ (c : Config) (ops : List Instr) (t : State) (i : CntIdx), c.WellFormed → Instr.reset ∉ ops →
    runOps ops (State.resetOf c) = .next t →
    ∃ u, exec (.read i) t = .next u ∧ u.rdData.toNat = landingsIn c i (firings ops) (Block.atReset c) % 2 ^ c.cw

/-- 44_operations section 2 (R134; the order is the spec's decision D15): `FIRE_READ i` is `READ i` and then `FIRE`: the
bus carries the counter as it was before the firing, one less than after where the firing lands on `i`. -/
def Obligations.FireReadIsReadThenFire : Prop :=
  ∀ (s : State) (i : CntIdx), Ready s →
    ∃ b, runOps [.read i, .fire] s = .next { s with block := b, rdData := 0 } ∧
      exec .fire s = .next { s with block := b, rdData := 0 } ∧
      exec (.fireRead i) s = .next { s with block := b, rdData := s.block.cnt[i.toNat]'i.isLt } ∧
      cntRead b.cnt i =
        if (advance s.cfg s.block.state (next4 s.block.lfsr).1).landed = some i then s.block.cnt[i.toNat]'i.isLt + 1
        else s.block.cnt[i.toNat]'i.isLt

/-- 44_operations section 2 (R135, derived in the spec): an idle edge changes no state and leaves the bus at 0 (the spec's
decision D16, log entry 24). That this holds before the first `RESET` too, where the items hold no value the spec specifies
(R35), is the model's inference (DEDUCED, log entries 17 and 20). -/
def Obligations.IdleChangesNothing : Prop :=
  ∀ s : State, s.cfg.WellFormed → exec .idle s = .next { s with rdData := 0 }

/-- 44_operations section 2 (R133; the spec's decision D16): the bus at an edge, as a function of `RST`, `RD_EN`, `RD_IDX` and
the counters before the edge, for every request word (log entry 24; an idle edge before the first `RESET` is log entry 20). -/
def Obligations.BusCarriesTheCounterReadOrZero : Prop :=
  ∀ (s t : State) (w : Req), exec (decodeReq w) s = .next t →
    t.rdData.toNat = if w[4] = false ∧ w[2] = true then (cntRead s.block.cnt (w.extractLsb' 0 2)).toNat else 0

/-! ### Runs of operations (20_memory, 60_exceptions, 70_reset_and_hazards) -/

/-- 30_encoding section 1 (R62), 60_exceptions section 1 (R145, derived in the spec): once reset, every list of operations
runs to its end, with no fault and no refusal. -/
def Obligations.EveryRequestCompletes : Prop :=
  ∀ (ops : List Instr) (s : State), Ready s → ∃ t, runOps ops s = .next t ∧ Ready t ∧ t.cfg = s.cfg ∧ t.req = s.req

/-- 70_reset_and_hazards section 2 (R170; the spec's decision D25): a strobe held high for `m + 1` edges is `m + 1` firings. -/
def Obligations.HeldStrobeIsManyFirings : Prop :=
  ∀ (s : State) (m : Nat), Ready s →
    runOps (List.replicate (m + 1) .fire) s = .next { s with block := Block.fires s.cfg (m + 1) s.block, rdData := 0 }

/-- 20_memory section 3 (R41, R47), 42_output section 2 (R113): a read and an idle edge change nothing but the bus
(an idle edge before the first `RESET` is the model's inference, log entry 20). -/
def Obligations.ReaderWritesNoState : Prop :=
  ∀ (s t : State) (i : CntIdx), exec (.read i) s = .next t ∨ exec .idle s = .next t →
    ∃ v, t = { s with rdData := v }

/-- 43_counters_read section 2 (R120), 44_operations section 2 (R135) and section 3 (R136, derived in the spec), 30_encoding
section 7 (R72): with the reader's reads and the idle edges taken out of a run, the state it ends in is the same but for the
bus (an idle edge before the first `RESET` is the model's inference, log entry 20). -/
def Obligations.RemovingTheReaderChangesNothing : Prop :=
  ∀ (ops : List Instr) (s t : State), runOps ops s = .next t →
    ∃ v, runOps (ops.filterMap Instr.withoutReader) s = .next { t with rdData := v }

/-- 10_state section 5 (R32), 60_exceptions section 4 (R153): a read tells nothing of `LFSR`, `STATE`, `TOCK` and the
pins: two blocks with the same counters answer it alike. -/
def Obligations.ReaderSeesOnlyTheCounters : Prop :=
  ∀ (s : State) (b : Block s.cfg.k s.cfg.cw) (i : CntIdx) (v : BitVec s.cfg.cw), b.cnt = s.block.cnt →
    exec (.read i) s = .next { s with rdData := v } →
    exec (.read i) { s with block := b } = .next { s with block := b, rdData := v }

/-- 20_memory section 4 (R52 (a), derived in the spec), 44_operations section 2 (R131): without a reset and short of a wrap a
counter never decreases, and grows by at most one for each firing. -/
def Obligations.CountersNeverDecrease : Prop :=
  ∀ (ops : List Instr) (s t : State) (i : CntIdx), Instr.reset ∉ ops → runOps ops s = .next t →
    (cntRead s.block.cnt i).toNat + firings ops < 2 ^ s.cfg.cw →
    (cntRead s.block.cnt i).toNat ≤ (cntRead t.block.cnt i).toNat ∧
      (cntRead t.block.cnt i).toNat ≤ (cntRead s.block.cnt i).toNat + firings ops

/-- 20_memory section 4 (R52 (b), (c), derived in the spec): the four values of a snapshot taken between `s` and `t`, with
any operations but resets between the reads and no counter near a wrap, add up to a number between the sums of the counters
at the two ends; and they are the counters themselves where no firing falls between the reads. -/
def Obligations.SnapshotSumIsBetween : Prop :=
  ∀ (s r0 a1 r1 a2 r2 a3 t : State) (ops1 ops2 ops3 : List Instr),
    Instr.reset ∉ ops1 → Instr.reset ∉ ops2 → Instr.reset ∉ ops3 →
    exec (.read 0) s = .next r0 → runOps ops1 r0 = .next a1 → exec (.read 1) a1 = .next r1 →
    runOps ops2 r1 = .next a2 → exec (.read 2) a2 = .next r2 → runOps ops3 r2 = .next a3 →
    exec (.read 3) a3 = .next t →
    (∀ i, (cntRead s.block.cnt i).toNat + firings (ops1 ++ ops2 ++ ops3) < 2 ^ s.cfg.cw) →
    s.block.total ≤ r0.rdData.toNat + r1.rdData.toNat + r2.rdData.toNat + t.rdData.toNat ∧
      r0.rdData.toNat + r1.rdData.toNat + r2.rdData.toNat + t.rdData.toNat ≤ t.block.total ∧
      (firings (ops1 ++ ops2 ++ ops3) = 0 →
        r0.rdData.toNat + r1.rdData.toNat + r2.rdData.toNat + t.rdData.toNat = s.block.total ∧
          r1.rdData.toNat = (cntRead s.block.cnt 1).toNat ∧ r2.rdData.toNat = (cntRead s.block.cnt 2).toNat ∧
          t.rdData.toNat = (cntRead s.block.cnt 3).toNat)

/-! ### The reader's arithmetic (43_counters_read section 2, host behaviour) -/

/-- 43_counters_read section 2 (R117): `CW + 2` bits hold the sum of the four counts. -/
def Obligations.TotalDoesNotOverflow : Prop :=
  ∀ (cw : Nat) (v : Snapshot cw), v.total.toNat = v.c0.toNat + v.c1.toNat + v.c2.toNat + v.c3.toNat

/-- 43_counters_read section 2 (R118; the spec's decision D29): the printed ratio is a nearest thousandth to `4 c0 / total` and
at most 4, whatever the tie rule, which is a free value (log entry 16). -/
def Obligations.PrintedRatioIsNearest : Prop :=
  ∀ c0 total : Nat, 0 < total → c0 ≤ total →
    2 * (ratioThousandths c0 total * total) ≤ 2 * (4000 * c0) + total ∧
      2 * (4000 * c0) ≤ 2 * (ratioThousandths c0 total * total) + total ∧ ratioThousandths c0 total ≤ 4000

/-- 43_counters_read section 2 (R117), section 1 (R116), 20_memory section 4 (R51): a run with wakes of the reader is the run of
its operations, four reads for each wake with a ready session and none for another, whatever the policy; a wake without a
session sends no line; and once the machine is reset every run of wakes completes, with at most one line for each wake with a
ready session. That other operations and readiness are given as lists is the model's choice (log entry 26). -/
def Obligations.WakesAreTheirOperations : Prop :=
  ∀ (policy : ZeroTotalPolicy) (ws : List Wake) (s : State),
    (∀ p, runWakes policy ws s = .next p →
      runOps (ws.flatMap Wake.ops) s = .next p.state ∧ p.lines.length ≤ ws.countP Wake.sessionReady) ∧
    (Ready s → ∃ p, runWakes policy ws s = .next p) ∧
    (∀ g, performWake policy false g s = .next { state := s, values := none, line := none })

/-- 43_counters_read section 1 (R115, R116) and section 2 (R117), 20_memory section 4 (R51): a snapshot of a ready machine
completes; each of its values is the counter as it stands at its own read, after everything that falls before that read; and
a wake with a ready session sends the line of exactly that snapshot. The ascending order is the spec's decision D22. -/
def Obligations.SnapshotReadsTheCounters : Prop :=
  ∀ (g : Gaps) (s : State),
    (∀ e, takeSnapshot g s = .next e →
      ∃ a1 a2 a3, runOps (.read 0 :: g.afterRead0) s = .next a1 ∧ runOps (.read 1 :: g.afterRead1) a1 = .next a2 ∧
        runOps (.read 2 :: g.afterRead2) a2 = .next a3 ∧ exec (.read 3) a3 = .next e.state ∧
        e.values.c0.toNat = (cntRead s.block.cnt 0).toNat ∧ e.values.c1.toNat = (cntRead a1.block.cnt 1).toNat ∧
        e.values.c2.toNat = (cntRead a2.block.cnt 2).toNat ∧ e.values.c3.toNat = (cntRead a3.block.cnt 3).toNat) ∧
    (Ready s → ∃ e, takeSnapshot g s = .next e ∧ ∀ policy, performWake policy true g s =
      .next { state := e.state, values := some e.values, line := reportLine policy e.values })

/-- 43_counters_read section 2 (R117, R118): the exact ratio is there exactly when some count is not 0; it lies between 0 and
4, is 1 exactly when a quarter of the transitions landed on macro-state 0, and the printed thousandths are a nearest multiple
to it, whatever the tie rule, which is a free value (log entry 16). -/
def Obligations.ExactRatioIsBetweenZeroAndFour : Prop :=
  ∀ (cw : Nat) (v : Snapshot cw),
    (v.ratio = none ↔ v.c0 = 0 ∧ v.c1 = 0 ∧ v.c2 = 0 ∧ v.c3 = 0) ∧
    ∀ r : ℚ, v.ratio = some r →
      0 ≤ r ∧ r ≤ 4 ∧ (r = 1 ↔ 4 * v.c0.toNat = v.c0.toNat + v.c1.toNat + v.c2.toNat + v.c3.toNat) ∧
        |(ratioThousandths v.c0.toNat v.total.toNat : ℚ) / 1000 - r| ≤ 1 / 2000
end

