-- ==== Sys2Proof/Laws/State.lean ====
section
/-! SUPPORT. One lemma for each field and each update of the block and of the machine's state, so that no later proof
unfolds a record update. -/

namespace Sys2Proof.Machine

variable {k cw : Nat} (b : Block k cw) (x : LfsrWord) (st : BitVec (k + 2)) (cnt : Vector (BitVec cw) 4) (d : Driven)

@[simp] theorem Block.withLfsr_lfsr : (b.withLfsr x).lfsr = x := rfl
@[simp] theorem Block.withLfsr_state : (b.withLfsr x).state = b.state := rfl
@[simp] theorem Block.withLfsr_tock : (b.withLfsr x).tock = b.tock := rfl
@[simp] theorem Block.withLfsr_cnt : (b.withLfsr x).cnt = b.cnt := rfl
@[simp] theorem Block.withLfsr_led : (b.withLfsr x).led = b.led := rfl
@[simp] theorem Block.withLfsr_actA : (b.withLfsr x).actA = b.actA := rfl
@[simp] theorem Block.withLfsr_actB : (b.withLfsr x).actB = b.actB := rfl

@[simp] theorem Block.withWalk_lfsr : (b.withWalk st cnt).lfsr = b.lfsr := rfl
@[simp] theorem Block.withWalk_state : (b.withWalk st cnt).state = st := rfl
@[simp] theorem Block.withWalk_tock : (b.withWalk st cnt).tock = b.tock := rfl
@[simp] theorem Block.withWalk_cnt : (b.withWalk st cnt).cnt = cnt := rfl
@[simp] theorem Block.withWalk_led : (b.withWalk st cnt).led = b.led := rfl
@[simp] theorem Block.withWalk_actA : (b.withWalk st cnt).actA = b.actA := rfl
@[simp] theorem Block.withWalk_actB : (b.withWalk st cnt).actB = b.actB := rfl

@[simp] theorem Block.withDriven_lfsr : (b.withDriven d).lfsr = b.lfsr := rfl
@[simp] theorem Block.withDriven_state : (b.withDriven d).state = b.state := rfl
@[simp] theorem Block.withDriven_tock : (b.withDriven d).tock = d.tock := rfl
@[simp] theorem Block.withDriven_cnt : (b.withDriven d).cnt = b.cnt := rfl
@[simp] theorem Block.withDriven_led : (b.withDriven d).led = d.led := rfl
@[simp] theorem Block.withDriven_actA : (b.withDriven d).actA = d.actA := rfl
@[simp] theorem Block.withDriven_actB : (b.withDriven d).actB = d.actB := rfl

variable (s : State)

@[simp] theorem State.afterEdge_cfg (b' : Block s.cfg.k s.cfg.cw) (v : BitVec s.cfg.cw) :
    (s.afterEdge b' v).cfg = s.cfg := rfl
@[simp] theorem State.afterEdge_block (b' : Block s.cfg.k s.cfg.cw) (v : BitVec s.cfg.cw) :
    (s.afterEdge b' v).block = b' := rfl
@[simp] theorem State.afterEdge_rdData (b' : Block s.cfg.k s.cfg.cw) (v : BitVec s.cfg.cw) :
    (s.afterEdge b' v).rdData = v := rfl
@[simp] theorem State.afterEdge_live (b' : Block s.cfg.k s.cfg.cw) (v : BitVec s.cfg.cw) :
    (s.afterEdge b' v).live = s.live := rfl
@[simp] theorem State.afterEdge_req (b' : Block s.cfg.k s.cfg.cw) (v : BitVec s.cfg.cw) :
    (s.afterEdge b' v).req = s.req := rfl

@[simp] theorem State.setLive_cfg : s.setLive.cfg = s.cfg := rfl
@[simp] theorem State.setLive_block : s.setLive.block = s.block := rfl
@[simp] theorem State.setLive_rdData : s.setLive.rdData = s.rdData := rfl
@[simp] theorem State.setLive_live : s.setLive.live = true := rfl
@[simp] theorem State.setLive_req : s.setLive.req = s.req := rfl

@[simp] theorem State.dropReq_cfg : s.dropReq.cfg = s.cfg := rfl
@[simp] theorem State.dropReq_block : s.dropReq.block = s.block := rfl
@[simp] theorem State.dropReq_rdData : s.dropReq.rdData = s.rdData := rfl
@[simp] theorem State.dropReq_live : s.dropReq.live = s.live := rfl
@[simp] theorem State.dropReq_req : s.dropReq.req = s.req.tail := rfl

end Sys2Proof.Machine
end

