-- ==== Sys2Proof/Laws/Ops.lean ====
section
/-! SUPPORT. For each shared operation, once, what it can do. -/

namespace Sys2Proof

open Machine

/-- A configuration is well-formed exactly when it passes every named check. -/
theorem Config.wellFormed_iff_passes (c : Config) : c.WellFormed ↔ ∀ k, c.passes k = true := by
  simp only [Config.WellFormed, Config.firstFailure, List.find?_eq_none]
  constructor
  · intro h k
    have := h k (by cases k <;> simp [ConfigCheck.all])
    simpa using this
  · intro h k _
    simp [h k]

theorem Config.WellFormed.k_pos {c : Config} (h : c.WellFormed) : 1 ≤ c.k := by
  simpa [Config.passes] using (c.wellFormed_iff_passes.1 h) .kAtLeastOne

theorem Config.WellFormed.seed_ne_zero {c : Config} (h : c.WellFormed) : c.seed ≠ 0 := by
  simpa [Config.passes] using (c.wellFormed_iff_passes.1 h) .seedNonzero

theorem Config.WellFormed.seed_lt {c : Config} (h : c.WellFormed) : c.seed < 2 ^ 16 := by
  simpa [Config.passes] using (c.wellFormed_iff_passes.1 h) .seed16Bits

theorem Config.WellFormed.entry_lt {c : Config} (h : c.WellFormed) {e : Nat} (he : e ∈ c.table.toList) : e < 4 := by
  have := (c.wellFormed_iff_passes.1 h) .tableEntriesInRange
  simp only [Config.passes, List.all_eq_true, decide_eq_true_eq] at this
  exact this e he

theorem Config.WellFormed.origin_self_loop {c : Config} (h : c.WellFormed) : c.table[0] = 0 := by
  simpa [Config.passes] using (c.wellFormed_iff_passes.1 h) .tableRow0Col0

/-- The configuration check: it goes on exactly where the configuration is well-formed. -/
theorem whenWellFormed_of_wellFormed {s : State} (h : s.cfg.WellFormed) (k : Host.Outcome State Fault Refusal) :
    whenWellFormed s k = k := by
  simp only [Config.WellFormed] at h
  simp [whenWellFormed, h]

/-- What the configuration check can answer: a refusal that names a check the configuration fails, or what follows it. -/
theorem whenWellFormed_cases (s : State) (k : Host.Outcome State Fault Refusal) :
    (∃ check, whenWellFormed s k = .refused (.badConfig check) ∧ s.cfg.passes check = false) ∨
      (s.cfg.WellFormed ∧ whenWellFormed s k = k) := by
  unfold whenWellFormed
  split
  · rename_i check h
    refine .inl ⟨check, rfl, ?_⟩
    simpa using List.find?_some h
  · rename_i h
    exact .inr ⟨h, rfl⟩

/-- What passing the configuration check says. -/
theorem whenWellFormed_eq_next {s t : State} {k : Host.Outcome State Fault Refusal}
    (h : whenWellFormed s k = .next t) : s.cfg.WellFormed ∧ k = .next t := by
  rcases whenWellFormed_cases s k with ⟨check, hr, _⟩ | ⟨hw, hk⟩
  · rw [hr] at h
    cases h
  · exact ⟨hw, hk ▸ h⟩

/-- The power-on check: it goes on exactly where a `RESET` has happened. -/
theorem whenLive_of_live {s : State} (h : s.live = true) (k : Host.Outcome State Fault Refusal) :
    whenLive s k = k := by
  simp [whenLive, h]

/-- What passing the power-on check says. -/
theorem whenLive_eq_next {s t : State} {k : Host.Outcome State Fault Refusal}
    (h : whenLive s k = .next t) : s.live = true ∧ k = .next t := by
  unfold whenLive at h
  split at h
  · rename_i hl
    exact ⟨hl, h⟩
  · cases h

/-- A read of a counter after a write: the value written at that index, the old value elsewhere. -/
theorem cntRead_cntWrite {cw : Nat} (cnt : Vector (BitVec cw) 4) (i j : CntIdx) (v : BitVec cw) :
    cntRead (cntWrite cnt i v) j = if j = i then v else cntRead cnt j := by
  unfold cntRead cntWrite
  rw [Vector.getElem_set]
  by_cases h : j = i
  · simp [h]
  · have : i.toNat ≠ j.toNat := fun e => h (BitVec.eq_of_toNat_eq e.symm)
    simp [h, this]

/-- The incremented state never wraps at `K+3` bits. -/
theorem nextPacked_toNat (k : Nat) (st : BitVec (k + 2)) : (nextPacked k st).toNat = st.toNat + 1 := by
  have h := st.isLt
  have hp : 2 ^ (k + 2) + 2 ≤ 2 ^ (k + 3) := by
    have h1 : 2 ^ (k + 3) = 2 * 2 ^ (k + 2) := by ring
    have h2 : 2 ^ (k + 2) = 4 * 2 ^ k := by ring
    have h3 : 1 ≤ 2 ^ k := Nat.one_le_two_pow
    omega
  have hlt : 1 < 2 ^ (k + 3) := by omega
  have h1 : (1 : BitVec (k + 3)).toNat = 1 := Nat.mod_eq_of_lt hlt
  simp only [nextPacked, BitVec.toNat_add, BitVec.toNat_setWidth]
  rw [h1, Nat.mod_eq_of_lt (a := st.toNat) (by omega), Nat.mod_eq_of_lt (by omega)]

/-- Landing on a macro-state stores it above a zero sub-step. -/
theorem landOn_toNat (k : Nat) (m : MacroState) : (landOn k m).toNat = m.toNat * 2 ^ k := by
  have h := m.isLt
  have h2 : 2 ^ (k + 2) = 4 * 2 ^ k := by ring
  have h3 : 1 ≤ 2 ^ k := Nat.one_le_two_pow
  simp only [landOn, BitVec.toNat_shiftLeft, BitVec.toNat_setWidth, Nat.shiftLeft_eq]
  rw [Nat.mod_eq_of_lt (a := m.toNat) (by omega)]
  exact Nat.mod_eq_of_lt (by rw [h2]; exact Nat.mul_lt_mul_of_pos_right h (by omega))

/-- The two outcomes of the tick-edge detector, all of `DRIVE` (42_output R105). -/
theorem drive_eq (k : Nat) (st : BitVec (k + 2)) (tock : Bool) :
    drive k st tock =
      if st = 0 then { tock := !tock, led := true, actA := !tock, actB := tock }
      else { tock := tock, led := false, actA := false, actB := false } := by
  unfold drive tickOf tockAfter
  by_cases h : st = 0
  · subst h
    simp
  · have hb : (st == 0) = false := by
      rw [beq_eq_false_iff_ne]
      exact h
    rw [if_neg h]
    simp only [hb]
    rfl

section Fire

variable (c : Config) (d : Draw) (b : Block c.k c.cw)

/-- What a firing with a given draw leaves in each register (44_operations R132): the register stepped, the walk advanced. -/
theorem fireWith_lfsr : (b.fireWith c d).lfsr = (next4 b.lfsr).2 := rfl

theorem fireWith_state : (b.fireWith c d).state = (advance c b.state d).state := rfl

theorem fireWith_cnt : (b.fireWith c d).cnt = countLanded b.cnt (advance c b.state d).landed := rfl

/-- The outputs of a firing are those `DRIVE` gives for the new packed state and the old `TOCK` (42_output R105, R114). -/
theorem fireWith_outputs :
    drive c.k (b.fireWith c d).state b.tock =
      { tock := (b.fireWith c d).tock, led := (b.fireWith c d).led,
        actA := (b.fireWith c d).actA, actB := (b.fireWith c d).actB } := rfl

/-- A firing is a firing with the draw of `NEXT4` (44_operations R132). -/
theorem fire_eq_fireWith : b.fire c = b.fireWith c (next4 b.lfsr).1 := rfl

theorem fires_succ (n : Nat) : Block.fires c (n + 1) b = Block.fires c n (b.fire c) := rfl

theorem fires_add (m n : Nat) : Block.fires c (m + n) b = Block.fires c n (Block.fires c m b) := by
  induction m generalizing b with
  | zero => simp [Block.fires]
  | succ m ih => rw [show m + 1 + n = (m + n) + 1 by omega, fires_succ, fires_succ, ih]

end Fire

/-- A run that starts with an operation runs the rest from where it leads. -/
theorem runOps_cons_eq_next_iff {i : Instr} {ops : List Instr} {s t : State} :
    runOps (i :: ops) s = .next t ↔ ∃ u, exec i s = .next u ∧ runOps ops u = .next t := by
  simp only [runOps]
  cases h : exec i s <;> simp

/-- The operations that have no meaning before the first `RESET`. -/
def needsReset : Instr → Bool
  | .reset => false
  | .fire => true
  | .read _ => true
  | .fireRead _ => true
  | .idle => false

/-- The state an operation leaves where it executes. -/
def edgeOf : Instr → State → State
  | .reset, s => (s.afterEdge (Block.atReset s.cfg) 0).setLive
  | .fire, s => s.afterEdge (s.block.fire s.cfg) 0
  | .read j, s => s.afterEdge s.block (cntRead s.block.cnt j)
  | .fireRead j, s => s.afterEdge (s.block.fire s.cfg) (cntRead s.block.cnt j)
  | .idle, s => s.afterEdge s.block 0

/-- What each operation can do, with its guards: all the next states of `exec`. -/
theorem exec_eq_next_iff {i : Instr} {s t : State} :
    exec i s = .next t ↔ s.cfg.WellFormed ∧ (needsReset i = true → s.live = true) ∧ edgeOf i s = t := by
  constructor
  · intro h
    cases i with
    | reset =>
      obtain ⟨hw, hk⟩ := whenWellFormed_eq_next h
      cases hk
      exact ⟨hw, nofun, rfl⟩
    | fire =>
      obtain ⟨hw, hk⟩ := whenWellFormed_eq_next h
      obtain ⟨hl, hk⟩ := whenLive_eq_next hk
      cases hk
      exact ⟨hw, fun _ => hl, rfl⟩
    | read j =>
      obtain ⟨hw, hk⟩ := whenWellFormed_eq_next h
      obtain ⟨hl, hk⟩ := whenLive_eq_next hk
      cases hk
      exact ⟨hw, fun _ => hl, rfl⟩
    | fireRead j =>
      obtain ⟨hw, hk⟩ := whenWellFormed_eq_next h
      obtain ⟨hl, hk⟩ := whenLive_eq_next hk
      cases hk
      exact ⟨hw, fun _ => hl, rfl⟩
    | idle =>
      obtain ⟨hw, hk⟩ := whenWellFormed_eq_next h
      cases hk
      exact ⟨hw, nofun, rfl⟩
  · rintro ⟨hw, hl, rfl⟩
    cases i with
    | reset => exact whenWellFormed_of_wellFormed hw _
    | fire => exact (whenWellFormed_of_wellFormed hw _).trans (whenLive_of_live (hl rfl) _)
    | read j => exact (whenWellFormed_of_wellFormed hw _).trans (whenLive_of_live (hl rfl) _)
    | fireRead j => exact (whenWellFormed_of_wellFormed hw _).trans (whenLive_of_live (hl rfl) _)
    | idle => exact whenWellFormed_of_wellFormed hw _

end Sys2Proof
end

