-- ==== Sys2Proof/Laws/PerInstr.lean ====
section
/-! SUPPORT. Statements made for each operation: the canonical word of an operation sets no ignored bit (30_encoding
R72). -/

namespace Sys2Proof.Laws.CanonicalWord

/-- The canonical word has every ignored bit 0. -/
def Statement (i : Instr) : Prop := encode i &&& careMask i = encode i

theorem reset : Statement .reset := by
  unfold Statement
  decide

theorem fire : Statement .fire := by
  unfold Statement
  decide

theorem read (i : CntIdx) : Statement (.read i) := by
  unfold Statement
  revert i
  decide

theorem fireRead (i : CntIdx) : Statement (.fireRead i) := by
  unfold Statement
  revert i
  decide

theorem idle : Statement .idle := by
  unfold Statement
  decide

end Sys2Proof.Laws.CanonicalWord
end

