-- ==== Sys2Proof/Laws/Reader.lean ====
section
/-! SUPPORT. What a run of operations and the reader's snapshot can do, said once. -/

namespace Sys2Proof

open Machine

@[simp] theorem andThen_next {α β : Type} (a : α) (k : α → Host.Outcome β Fault Refusal) : andThen (.next a) k = k a := rfl

/-- What goes on through two stages goes on through each. -/
theorem andThen_eq_next_iff {α β : Type} {o : Host.Outcome α Fault Refusal} {k : α → Host.Outcome β Fault Refusal} {b : β} :
    andThen o k = .next b ↔ ∃ a, o = .next a ∧ k a = .next b := by
  cases o <;> simp [andThen]

/-- A list of operations in two parts. -/
theorem runOps_append (ops ops' : List Instr) (s : State) :
    runOps (ops ++ ops') s = andThen (runOps ops s) (runOps ops') := by
  induction ops generalizing s with
  | nil => rfl
  | cons i ops ih =>
    simp only [List.cons_append, runOps]
    cases exec i s with
    | next t => exact ih t
    | fault f => rfl
    | refused r => rfl

/-- A run in two parts goes on through each. -/
theorem runOps_append_eq_next_iff {ops ops' : List Instr} {s t : State} :
    runOps (ops ++ ops') s = .next t ↔ ∃ u, runOps ops s = .next u ∧ runOps ops' u = .next t := by
  rw [runOps_append, andThen_eq_next_iff]

/-- An operation that goes on keeps the configuration. -/
theorem exec_cfg {i : Instr} {s t : State} (h : exec i s = .next t) : t.cfg = s.cfg := by
  obtain ⟨-, -, rfl⟩ := exec_eq_next_iff.1 h
  cases i <;> rfl

/-- A run that goes on keeps the configuration. -/
theorem runOps_cfg {ops : List Instr} {s t : State} (h : runOps ops s = .next t) : t.cfg = s.cfg := by
  induction ops generalizing s with
  | nil => cases h; rfl
  | cons i ops ih =>
    obtain ⟨u, hu, ht⟩ := runOps_cons_eq_next_iff.1 h
    exact (ih ht).trans (exec_cfg hu)

/-- A read that goes on carries the counter on the bus. -/
theorem exec_read_rdData {i : CntIdx} {s t : State} (h : exec (.read i) s = .next t) :
    t.rdData.toNat = (cntRead s.block.cnt i).toNat := by
  obtain ⟨-, -, rfl⟩ := exec_eq_next_iff.1 h
  rfl

/-- The bus read at the width of another state of the same configuration is the bus. -/
theorem setWidth_bus_toNat {s t : State} (h : t.cfg = s.cfg) : (t.rdData.setWidth s.cfg.cw).toNat = t.rdData.toNat := by
  rw [BitVec.toNat_setWidth, ← h]
  exact Nat.mod_eq_of_lt t.rdData.isLt

/-- All a snapshot can do: the four reads and what falls between them, each value the bus at its own read. -/
theorem takeSnapshot_eq_next_iff {g : Gaps} {s : State} {e : Taken s.cfg.cw} :
    takeSnapshot g s = .next e ↔ ∃ r0 a1 r1 a2 r2 a3 r3,
      exec (.read 0#2) s = .next r0 ∧ runOps g.afterRead0 r0 = .next a1 ∧
      exec (.read 1#2) a1 = .next r1 ∧ runOps g.afterRead1 r1 = .next a2 ∧
      exec (.read 2#2) a2 = .next r2 ∧ runOps g.afterRead2 r2 = .next a3 ∧
      exec (.read 3#2) a3 = .next r3 ∧
      { state := r3
        values := ⟨r0.rdData.setWidth s.cfg.cw, r1.rdData.setWidth s.cfg.cw, r2.rdData.setWidth s.cfg.cw,
          r3.rdData.setWidth s.cfg.cw⟩ } = e := by
  simp only [takeSnapshot, andThen_eq_next_iff, Host.Outcome.next.injEq]
  constructor
  · rintro ⟨r0, h0, a1, g1, r1, h1, a2, g2, r2, h2, a3, g3, r3, h3, rfl⟩
    exact ⟨r0, a1, r1, a2, r2, a3, r3, h0, g1, h1, g2, h2, g3, h3, rfl⟩
  · rintro ⟨r0, a1, r1, a2, r2, a3, r3, h0, g1, h1, g2, h2, g3, h3, rfl⟩
    exact ⟨r0, h0, a1, g1, r1, h1, a2, g2, r2, h2, a3, g3, r3, h3, rfl⟩

/-- The exact ratio where there is one (43_counters_read R117). -/
theorem Machine.Snapshot.ratio_of_total {cw m n : Nat} {v : Snapshot cw} (hm : v.c0.toNat = m) (h : v.total.toNat = n)
    (hn : n ≠ 0) : v.ratio = some ((4 * m : ℚ) / n) := by
  rw [Snapshot.ratio, if_neg (fun e => hn (by rw [← h, e]; rfl)), h, hm]

end Sys2Proof
end

