-- ==== Sys2Proof/Tests/Slice0.lean ====
section
/-! SUPPORT. Tests of the model against the numbers of 95_test_vectors and of the rules' own examples, smoke tests of the
configuration checks, and for each statement with hypotheses a witness that meets them. -/

namespace Sys2Proof.Tests

open Sys2Proof Sys2Proof.Machine

/-- A block of the reference widths, pins low. -/
def blk (lfsr : LfsrWord) (state : BitVec 3) (tock : Bool) (cnt : Vector (BitVec 32) 4) : Block 1 32 :=
  { lfsr := lfsr, state := state, tock := tock, cnt := cnt, led := false, actA := false, actB := false }

/-- The machine of the default configuration with a given block. -/
def mach (b : Block 1 32) : State := { cfg := Config.default, block := b, rdData := 0, live := true, req := [] }

/-- What a test looks at: the registers as numbers, and the bus. -/
structure View where
  lfsr : Nat
  state : Nat
  tock : Bool
  pins : Bool × Bool × Bool
  cnt : List Nat
  rdData : Nat
deriving DecidableEq

/-- The view of a state. -/
def view (s : State) : View :=
  { lfsr := s.block.lfsr.toNat, state := s.block.state.toNat, tock := s.block.tock,
    pins := (s.block.led, s.block.actA, s.block.actB), cnt := s.block.cnt.toList.map BitVec.toNat,
    rdData := s.rdData.toNat }

/-- The view of the next state, if the machine goes on. -/
def viewNext (o : Host.Outcome State Fault Refusal) : Option View :=
  match o with
  | .next s => some (view s)
  | .fault _ => none
  | .refused _ => none

/-- The steady configuration of program P2. -/
def steadyCfg : Config := { Config.default with mode := .steady }

/-- The configuration of another depth. -/
def depthCfg (k : Nat) : Config := { Config.default with k := k }

/-! ### Encodings (30_encoding R61, R72; 95_test_vectors section 2.9) -/

theorem test_decode_all_words :
    (List.range 4).map (fun n => decodeReq (BitVec.ofNat 5 n)) = List.replicate 4 .idle ∧
      (List.range 4).map (fun n => decodeReq (BitVec.ofNat 5 (4 + n))) = [.read 0#2, .read 1#2, .read 2#2, .read 3#2] ∧
      (List.range 4).map (fun n => decodeReq (BitVec.ofNat 5 (8 + n))) = List.replicate 4 .fire ∧
      (List.range 4).map (fun n => decodeReq (BitVec.ofNat 5 (12 + n))) =
        [.fireRead 0#2, .fireRead 1#2, .fireRead 2#2, .fireRead 3#2] ∧
      (List.range 16).map (fun n => decodeReq (BitVec.ofNat 5 (16 + n))) = List.replicate 16 .reset := by decide

theorem test_decode_word_by_word :
    decodeReq 0b10000#5 = .reset ∧ decodeReq 0b01000#5 = .fire ∧ decodeReq 0b00111#5 = .read 3#2 ∧
      decodeReq 0b01110#5 = .fireRead 2#2 ∧ decodeReq 0b00000#5 = .idle := by decide

theorem test_one_row_for_each_word : ∀ w : Req, (decodeRows.filter (fun r => r.applies w)).length = 1 := by decide

theorem test_byte_with_high_bits_rejected :
    decodeBytes [0x28#8] = .error .notARequestWord ∧ decodeBytes [] = .error .noByte := ⟨rfl, rfl⟩

theorem test_table_rows_decode :
    decodeTableWord 8 0x10 = some .reset ∧ decodeTableWord 8 0x08 = some .fire ∧ decodeTableWord 8 0x04 = some (.read 0#2) ∧
      decodeTableWord 8 0x0C = some (.fireRead 0#2) ∧ decodeTableWord 8 0x00 = some .idle := by decide

/-- The listing of program P3 (95_test_vectors section 3), up to its spacing. -/
theorem test_trace_words :
    traceWords [.op .reset, .fires 1, .op (.read 0#2), .op (.fireRead 1#2), .wait 1, .snapshot] =
      [0x10#5, 0x08#5, 0x00#5, 0x04#5, 0x0D#5, 0x00#5, 0x04#5, 0x05#5, 0x06#5, 0x07#5] := by decide

theorem test_trace_text : traceText (.fireRead 3#2) = "FIRE_READ 3" ∧ traceText .idle = "IDLE" := by decide

/-! ### The fetch: each row of the table as the first instruction after reset -/

theorem test_first_step_fire :
    viewNext (step (State.reset.withFetchWord 8 0x08)) =
      some ⟨0x1C4E, 1, false, (false, false, false), [0, 0, 0, 0], 0⟩ := by decide

theorem test_first_step_read :
    viewNext (step (State.reset.withFetchWord 8 0x07)) =
      some ⟨0xACE1, 0, false, (false, false, false), [0, 0, 0, 0], 0⟩ := by decide

/-! ### Configuration checks (00_scope R17), each on a configuration that fails it alone -/

/-- Also the witness of ResetWritesEveryItem, InvariantHoldsAtReset and IdleChangesNothing: their one hypothesis is a
well-formed configuration. -/
theorem smoke_default : Config.default.WellFormed := by decide
theorem smoke_steady : steadyCfg.WellFormed := by decide
theorem smoke_k_zero : (depthCfg 0).firstFailure = some .kAtLeastOne := by decide
theorem smoke_cw_zero : { Config.default with cw := 0 }.firstFailure = some .cwAtLeastOne := by decide
theorem smoke_seed_zero : { Config.default with seed := 0 }.firstFailure = some .seedNonzero := by decide
theorem smoke_seed_wide : { Config.default with seed := 65536 }.firstFailure = some .seed16Bits := by decide
theorem smoke_entry_four :
    { Config.default with table := defaultTable.set 63 4 }.firstFailure = some .tableEntriesInRange := by decide
theorem smoke_origin_entry :
    { Config.default with table := (defaultTable.set 0 1).set 1 0 }.firstFailure = some .tableRow0Col0 := by decide
theorem smoke_row0 :
    { Config.default with table := defaultTable.set 5 2 }.firstFailure = some .tableRow0Distribution := by decide
theorem smoke_instr : ∀ i : CntIdx, Instr.wellFormed (.read i) = true ∧ Instr.wellFormed (.fireRead i) = true := by decide

/-- 30_encoding R68 in closed form. -/
theorem test_default_table : ∀ r : Fin 4, ∀ col : Fin 16,
    defaultTable[16 * r.val + col.val]'(by omega) =
      if col.val = 0 then r.val else if col.val ≤ 14 then (r.val + 1) % 4 else (r.val + 3) % 4 := by decide

/-! ### The generator (95_test_vectors section 2.1) -/

theorem test_lfsr_step :
    lfsrStep 0x0000#16 = (false, 0x0000#16) ∧ lfsrStep 0x0001#16 = (true, 0xB400#16) ∧
      lfsrStep 0x0002#16 = (false, 0x0001#16) ∧ lfsrStep 0x8000#16 = (false, 0x4000#16) ∧
      lfsrStep 0xFFFF#16 = (true, 0xCBFF#16) ∧ lfsrStep 0xB400#16 = (false, 0x5A00#16) ∧
      lfsrStep 0x6801#16 = (true, 0x8000#16) ∧ lfsrStep 0x31C3#16 = (true, 0xACE1#16) ∧
      lfsrStep 0xACE1#16 = (true, 0xE270#16) := by decide

theorem test_next4 :
    next4 0x0001#16 = (8#4, 0x1680#16) ∧ next4 0x0002#16 = (4#4, 0x2D00#16) ∧ next4 0x8000#16 = (0#4, 0x0800#16) ∧
      next4 0xFFFF#16 = (15#4, 0xDA7F#16) ∧ next4 0x6801#16 = (8#4, 0x1000#16) ∧ next4 0xACE1#16 = (8#4, 0x1C4E#16) ∧
      next4 0x1C4E#16 = (7#4, 0xC2C4#16) ∧ next4 0xC2C4#16 = (2#4, 0x562C#16) := by decide

/-! ### The transition engine (95_test_vectors sections 2.2 to 2.5, 2.7) -/

theorem test_advance_k1 :
    advance Config.default 0#3 9#4 = ⟨1#3, false, none⟩ ∧ advance Config.default 1#3 0#4 = ⟨0#3, true, some 0#2⟩ ∧
      advance Config.default 1#3 15#4 = ⟨6#3, true, some 3#2⟩ ∧ advance Config.default 3#3 1#4 = ⟨4#3, true, some 2#2⟩ ∧
      advance Config.default 5#3 15#4 = ⟨2#3, true, some 1#2⟩ ∧ advance Config.default 6#3 3#4 = ⟨7#3, false, none⟩ ∧
      advance Config.default 7#3 0#4 = ⟨6#3, true, some 3#2⟩ ∧ advance Config.default 7#3 14#4 = ⟨0#3, true, some 0#2⟩ := by
  decide

theorem test_advance_k2_k3 :
    advance (depthCfg 2) 2#4 5#4 = ⟨3#4, false, none⟩ ∧ advance (depthCfg 2) 3#4 15#4 = ⟨12#4, true, some 3#2⟩ ∧
      advance (depthCfg 2) 15#4 0#4 = ⟨12#4, true, some 3#2⟩ ∧ advance (depthCfg 3) 31#5 0#4 = ⟨24#5, true, some 3#2⟩ ∧
      advance (depthCfg 3) 15#5 15#4 = ⟨0#5, true, some 0#2⟩ := by decide

/-- The refused depth 0, for which the rules are still total; the counter that moves is that of the state entered. -/
theorem test_advance_k0 :
    advance (depthCfg 0) 1#2 15#4 = ⟨0#2, true, some 0#2⟩ ∧ advance (depthCfg 0) 3#2 5#4 = ⟨0#2, true, some 0#2⟩ := by
  decide

theorem test_advance_steady :
    advance steadyCfg 1#3 0#4 = ⟨2#3, true, some 1#2⟩ ∧ advance steadyCfg 7#3 15#4 = ⟨0#3, true, some 0#2⟩ := by decide

theorem test_count_inc_wraps :
    countInc (cw := 32) #v[0xFFFFFFFF, 5, 6, 7] 0#2 = #v[0, 5, 6, 7] ∧ countInc (cw := 2) #v[1, 1, 3, 1] 2#2 = #v[1, 1, 0, 1] := by
  decide

/-! ### The outputs (95_test_vectors section 2.6) -/

theorem test_drive :
    drive 1 0#3 false = ⟨true, true, true, false⟩ ∧ drive 1 0#3 true = ⟨false, true, false, true⟩ ∧
      drive 1 1#3 true = ⟨true, false, false, false⟩ ∧ drive 1 7#3 false = ⟨false, false, false, false⟩ := by decide

/-! ### The operations -/

/-- 95_test_vectors section 2.10. -/
theorem test_reset :
    viewNext (exec .reset (mach { blk 0x0000#16 7#3 true #v[0xFFFFFFFF, 5, 6, 7] with led := true, actB := true })) =
      some ⟨0xACE1, 0, false, (false, false, false), [0, 0, 0, 0], 0⟩ := by decide

/-- The example of 44_operations R132: the second firing after reset. -/
theorem test_fire_second_firing :
    viewNext (exec .fire (mach (blk 0x1C4E#16 1#3 false #v[0, 0, 0, 0]))) =
      some ⟨0xC2C4, 2, false, (false, false, false), [0, 1, 0, 0], 0⟩ := by decide

/-- 95_test_vectors program P1, firing 10: a self-loop, the second strike. -/
theorem test_fire_self_loop_tick :
    viewNext (exec .fire (mach (blk 0xFBB0#16 1#3 true #v[1, 1, 1, 1]))) =
      some ⟨0x0FBB, 0, false, (true, false, true), [2, 1, 1, 1], 0⟩ := by decide

/-- The example of 44_operations R133. -/
theorem test_read :
    viewNext (exec (decodeReq 0b00110#5) (mach (blk 0x330D#16 0#3 true #v[1, 2, 3, 4]))) =
      some ⟨0x330D, 0, true, (false, false, false), [1, 2, 3, 4], 3⟩ := by decide

/-- The example of 44_operations R134. -/
theorem test_fire_read :
    viewNext (exec (decodeReq 0b01100#5) (mach (blk 0x88D3#16 7#3 false #v[0, 1, 1, 1]))) =
      some ⟨0x330D, 0, true, (true, true, false), [1, 1, 1, 1], 0⟩ := by decide

/-- 95_test_vectors program P3: the merged request `FIRE_READ 1` carries the old `CNT[1]`. -/
theorem test_fire_read_other_counter :
    viewNext (exec (.fireRead 1#2) (mach (blk 0x88D3#16 7#3 false #v[0, 1, 1, 1]))) =
      some ⟨0x330D, 0, true, (true, true, false), [1, 1, 1, 1], 1⟩ := by decide

/-- 95_test_vectors section 2.8: `RD_EN = 0`, the index ignored, the bus 0. -/
theorem test_idle :
    viewNext (exec (decodeReq 0b00011#5) { mach (blk 0x0FBB#16 0#3 false #v[2, 1, 1, 1]) with rdData := 9 }) =
      some ⟨0x0FBB, 0, false, (false, false, false), [2, 1, 1, 1], 0⟩ := by decide

/-- 95_test_vectors section 1.2, firings 1 and 2: draws forced to 0, the register advancing all the same. -/
theorem test_fire_with_zero :
    view (mach (Block.firesWith Config.default [0#4, 0#4] (Block.atReset Config.default))) =
      ⟨0xC2C4, 0, true, (true, true, false), [1, 0, 0, 0], 0⟩ := by decide

/-- 10_state R35: the lines show nothing before the first reset. -/
theorem test_power_on_lines :
    (State.powerOn Config.default (blk 1#16 0#3 false #v[0, 0, 0, 0])).lines = none ∧ State.reset.lines = some (false, false, false) := by
  decide

/-! ### The reader (95_test_vectors sections 1.3 and 3) -/

/-- The 18 bytes of 95_test_vectors section 1.3. -/
theorem test_status_line :
    statusLine (cw := 32) ⟨5, 3, 1, 1⟩ =
      [0x32, 0x2E, 0x30, 0x30, 0x30, 0x20, 0x35, 0x20, 0x33, 0x20, 0x31, 0x20, 0x31, 0x20, 0x31, 0x30, 0x0D, 0x0A] := by decide

/-- The ratios of programs P3 and P4. -/
theorem test_ratio : ratioThousandths 2 5 = 1600 ∧ ratioThousandths 1 4 = 1000 ∧ ratioThousandths 0 3 = 0 := by decide

theorem test_no_line_while_total_zero : reportLine (cw := 32) .skip ⟨0, 0, 0, 0⟩ = none := by decide

/-- The exact ratio of 95_test_vectors section 1.3, and the ratio of four equal counts. -/
theorem test_exact_ratio :
    Snapshot.ratio (cw := 32) ⟨5, 3, 1, 1⟩ = some 2 ∧ Snapshot.ratio (cw := 32) ⟨7, 7, 7, 7⟩ = some 1 ∧
      Snapshot.ratio (cw := 32) ⟨0, 0, 0, 0⟩ = none := by
  refine ⟨(Snapshot.ratio_of_total (m := 5) (n := 10) (by decide) (by decide) (by decide)).trans ?_,
    (Snapshot.ratio_of_total (m := 7) (n := 28) (by decide) (by decide) (by decide)).trans ?_, rfl⟩ <;> norm_num

/-- 95_test_vectors program P3: a snapshot that straddles a firing, and the line the reader sends. -/
theorem test_wake_straddles_firing :
    (match performWake .skip true { afterRead1 := [.fire] } (mach (blk 0x88D3#16 7#3 false #v[0, 1, 1, 1])) with
      | .next e => e.line
      | .fault _ => none
      | .refused _ => none) =
      some [0x30, 0x2E, 0x30, 0x30, 0x30, 0x20, 0x30, 0x20, 0x31, 0x20, 0x31, 0x20, 0x31, 0x20, 0x33, 0x0D, 0x0A] := by
  decide

/-! ### Witnesses: for each statement with hypotheses, a state and operands that meet them -/

/-- FireIsDrawAdvanceDrive, FireReadIsReadThenFire, EveryRequestCompletes, HeldStrobeIsManyFirings. -/
theorem ready_reset : Ready State.reset := ⟨by decide, rfl⟩

theorem ready_mach (b : Block 1 32) : Ready (mach b) := ⟨smoke_default, rfl⟩

/-- A firing of a ready machine goes on. -/
theorem fire_goes_on {s : State} (h : Ready s) : exec .fire s = .next (edgeOf .fire s) :=
  exec_eq_next_iff.2 ⟨h.1, fun _ => h.2, rfl⟩

/-- A read of a ready machine goes on. -/
theorem read_goes_on {s : State} (h : Ready s) (i : CntIdx) : exec (.read i) s = .next (edgeOf (.read i) s) :=
  exec_eq_next_iff.2 ⟨h.1, fun _ => h.2, rfl⟩

/-- An idle edge of a ready machine goes on. -/
theorem idle_goes_on {s : State} (h : Ready s) : exec .idle s = .next (edgeOf .idle s) :=
  exec_eq_next_iff.2 ⟨h.1, nofun, rfl⟩

/-- StepRunsDecodedInstruction. -/
theorem witness_request_listed :
    (State.reset.withFetchWord 8 0x08).req = 0x08#5 :: [] ∧ State.reset.req = [] := by decide

/-- IllFormedConfigurationIsRefused, both cases. -/
theorem witness_ill_formed :
    ¬ (State.resetOf (depthCfg 0)).cfg.WellFormed ∧ (State.resetOf (depthCfg 3)).cfg.WellFormed := by decide

/-- OperationsKeepConfigurationAndPins, ReaderWritesNoState, BusCarriesTheCounterReadOrZero. -/
theorem witness_operation_goes_on :
    exec .idle State.reset = .next (edgeOf .idle State.reset) ∧
      exec (decodeReq 0b00110#5) State.reset = .next (edgeOf (.read 2#2) State.reset) :=
  ⟨idle_goes_on ready_reset, read_goes_on ready_reset 2#2⟩

/-- ResetForgetsThePast. -/
theorem witness_two_pasts :
    (mach (blk 1#16 5#3 true #v[1, 2, 3, 4])).cfg = (mach (blk 2#16 6#3 false #v[0, 0, 0, 0])).cfg ∧
      (mach (blk 1#16 5#3 true #v[1, 2, 3, 4])).req = (mach (blk 2#16 6#3 false #v[0, 0, 0, 0])).req := ⟨rfl, rfl⟩

/-- BeforeTheFirstReset. -/
theorem witness_power_on :
    (State.powerOn Config.default (blk 1#16 5#3 true #v[1, 2, 3, 4])).cfg.WellFormed ∧
      (State.powerOn Config.default (blk 1#16 5#3 true #v[1, 2, 3, 4])).live = false := ⟨smoke_default, rfl⟩

/-- InvariantKeptByStep: a live state after a tick event, and its step. -/
theorem witness_invariant :
    Inv (mach { blk 0x330D#16 0#3 true #v[1, 1, 1, 1] with led := true, actA := true }) ∧
      step (mach { blk 0x330D#16 0#3 true #v[1, 1, 1, 1] with led := true, actA := true }) =
        .next (edgeOf .idle (mach { blk 0x330D#16 0#3 true #v[1, 1, 1, 1] with led := true, actA := true })) := by
  refine ⟨fun _ => ⟨by decide, by decide, by decide, by decide, by decide⟩, ?_⟩
  exact exec_eq_next_iff.2 ⟨smoke_default, nofun, rfl⟩

/-- FirstFiringsAfterReset: both ends of the range, and the clause on the first lookup. -/
theorem witness_first_firings : Config.default.WellFormed ∧ 0 < 2 ^ Config.default.k ∧ 1 < 2 ^ Config.default.k ∧
    1 + 1 = 2 ^ Config.default.k := by decide

/-- Next4IsFourStepsOncePerFiring: the four steps of the example of 40_lfsr R81. -/
theorem witness_four_steps :
    lfsrStep 0xACE1#16 = (true, 0xE270#16) ∧ lfsrStep 0xE270#16 = (false, 0x7138#16) ∧
      lfsrStep 0x7138#16 = (false, 0x389C#16) ∧ lfsrStep 0x389C#16 = (false, 0x1C4E#16) := by decide

/-- ZeroRegisterIsAbsorbing: a block with a zero register, a configuration with a zero seed. -/
theorem witness_zero_register :
    (blk 0#16 5#3 true #v[1, 2, 3, 4]).lfsr = 0 ∧ (State.resetOf { Config.default with seed := 0 }).cfg.seed = 0 ∧
      (0x0001#16 : LfsrWord) ≠ 0 := by decide

/-- RowIsTheMacroStateLeft, AdvanceFollowsTheSteps, DrawMattersOnlyInStutterTransitions, SteadyWalkCountsFirings: a state whose
sub-step wraps (the largest) and one whose does not, in both modes. -/
theorem witness_wrap :
    ((7#3 : BitVec (1 + 2)).toNat + 1) % 2 ^ 1 = 0 ∧ ((1#3 : BitVec (1 + 2)).toNat + 1) % 2 ^ 1 = 0 ∧
      ((6#3 : BitVec (1 + 2)).toNat + 1) % 2 ^ 1 ≠ 0 ∧ steadyCfg.mode = .steady ∧ Config.default.mode = .stutter := by decide

/-- SelfLoopIsATransition, FireWithTransition: macro-state 0 at its last sub-step, the next draw 0. -/
theorem witness_self_loop :
    Ready (mach (blk 0x0010#16 1#3 false #v[0, 0, 0, 0])) ∧
      ((mach (blk 0x0010#16 1#3 false #v[0, 0, 0, 0])).block.state.toNat + 1) % 2 ^ Config.default.k = 0 ∧
      lookup Config.default (macroIndex 1 1#3) (next4 0x0010#16).1 = macroIndex 1 1#3 :=
  ⟨ready_mach _, by decide, by decide⟩

/-- FireWithoutTransition, OtherFiringsLowerThePins. -/
theorem witness_other_firing :
    Ready (mach (blk 0xACE1#16 0#3 true #v[0, 0, 0, 0])) ∧
      ((mach (blk 0xACE1#16 0#3 true #v[0, 0, 0, 0])).block.state.toNat + 1) % 2 ^ Config.default.k ≠ 0 ∧
      (Block.fire Config.default (blk 0xACE1#16 0#3 true #v[0, 0, 0, 0])).state ≠ 0 :=
  ⟨ready_mach _, by decide, by decide⟩

/-- TickFiringStrikesOneActuator. -/
theorem witness_tick_firing :
    Ready (mach (blk 0x88D3#16 7#3 false #v[0, 1, 1, 1])) ∧
      (Block.fire Config.default (blk 0x88D3#16 7#3 false #v[0, 1, 1, 1])).state = 0 := ⟨ready_mach _, by decide⟩

/-- AllZeroDrawsStayAtTheOrigin, StutterLookupReadsTheTable, TickIntervalIsAMultiple. -/
theorem witness_stutter :
    Config.default.WellFormed ∧ Config.default.mode = .stutter ∧ Config.default.k = 1 ∧
      (blk 0x0010#16 0#3 false #v[0, 0, 0, 0]).state = 0 ∧
      (Block.fires steadyCfg 8 (blk 0x0010#16 0#3 false #v[0, 0, 0, 0])).state = 0 := by decide

/-- PulseLastsOneFiring: a tick event, then an idle edge and a read. -/
theorem witness_pulse :
    ∃ t u, Ready (mach (blk 0x88D3#16 7#3 false #v[0, 1, 1, 1])) ∧
      exec .fire (mach (blk 0x88D3#16 7#3 false #v[0, 1, 1, 1])) = .next t ∧ t.block.led = true ∧
      firings [.idle, .read 0#2] = 0 ∧ Instr.reset ∉ [Instr.idle, .read 0#2] ∧ runOps [.idle, .read 0#2] t = .next u := by
  have hr : Ready (edgeOf .fire (mach (blk 0x88D3#16 7#3 false #v[0, 1, 1, 1]))) := ⟨smoke_default, rfl⟩
  have hi : Ready (edgeOf .idle (edgeOf .fire (mach (blk 0x88D3#16 7#3 false #v[0, 1, 1, 1])))) := ⟨smoke_default, rfl⟩
  exact ⟨_, edgeOf (.read 0#2) (edgeOf .idle (edgeOf .fire (mach (blk 0x88D3#16 7#3 false #v[0, 1, 1, 1])))),
    ready_mach _, fire_goes_on (ready_mach _), by decide, by decide, by decide,
    runOps_cons_eq_next_iff.2 ⟨_, idle_goes_on hr, runOps_cons_eq_next_iff.2 ⟨_, read_goes_on hi 0#2, rfl⟩⟩⟩

/-- TockAlternates: two consecutive tick events, two firings apart. -/
theorem witness_two_ticks :
    (Block.fire Config.default (blk 0x0010#16 1#3 false #v[0, 0, 0, 0])).led = true ∧
      ticksIn Config.default 1 (Block.fire Config.default (blk 0x0010#16 1#3 false #v[0, 0, 0, 0])) = 0 ∧
      (Block.fire Config.default (Block.fires Config.default 1
        (Block.fire Config.default (blk 0x0010#16 1#3 false #v[0, 0, 0, 0])))).led = true := by decide

/-- ReadReturnsTheCounter, RemovingTheReaderChangesNothing, CountersNeverDecrease: a run from reset without a reset in it. -/
theorem witness_run :
    Instr.reset ∉ [Instr.fire, .read 1#2] ∧ firings [Instr.fire, .read 1#2] = 1 ∧
      runOps [.fire, .read 1#2] (State.resetOf Config.default) =
        .next (edgeOf (.read 1#2) (edgeOf .fire (State.resetOf Config.default))) ∧
      (cntRead (State.resetOf Config.default).block.cnt 1#2).toNat + 1 < 2 ^ Config.default.cw := by
  have hr : Ready (State.resetOf Config.default) := ⟨smoke_default, rfl⟩
  have hf : Ready (edgeOf .fire (State.resetOf Config.default)) := ⟨smoke_default, rfl⟩
  refine ⟨by decide, by decide, ?_, by decide⟩
  exact runOps_cons_eq_next_iff.2 ⟨_, fire_goes_on hr, runOps_cons_eq_next_iff.2 ⟨_, read_goes_on hf 1#2, rfl⟩⟩

/-- ReaderSeesOnlyTheCounters. -/
theorem witness_same_counters :
    (blk 7#16 5#3 true #v[1, 2, 3, 4]).cnt = (mach (blk 1#16 0#3 false #v[1, 2, 3, 4])).block.cnt ∧
      exec (.read 2#2) (mach (blk 1#16 0#3 false #v[1, 2, 3, 4])) =
        .next { mach (blk 1#16 0#3 false #v[1, 2, 3, 4]) with rdData := 3 } :=
  ⟨rfl, read_goes_on (ready_mach _) 2#2⟩

/-- SnapshotSumIsBetween: a snapshot with a firing between its second and third read, and counters far from a wrap. -/
theorem witness_snapshot :
    ∃ r0 r1 a2 r2 t, exec (.read 0) State.reset = .next r0 ∧ runOps [] r0 = .next r0 ∧ exec (.read 1) r0 = .next r1 ∧
      runOps [.fire] r1 = .next a2 ∧ exec (.read 2) a2 = .next r2 ∧ runOps [] r2 = .next r2 ∧
      exec (.read 3) r2 = .next t ∧
      ∀ i, (cntRead State.reset.block.cnt i).toNat + firings ([] ++ [Instr.fire] ++ []) < 2 ^ State.reset.cfg.cw := by
  have h0 : Ready (edgeOf (.read 0) State.reset) := ⟨smoke_default, rfl⟩
  have h1 : Ready (edgeOf (.read 1) (edgeOf (.read 0) State.reset)) := ⟨smoke_default, rfl⟩
  have h2 : Ready (edgeOf .fire (edgeOf (.read 1) (edgeOf (.read 0) State.reset))) := ⟨smoke_default, rfl⟩
  have h3 : Ready (edgeOf (.read 2) (edgeOf .fire (edgeOf (.read 1) (edgeOf (.read 0) State.reset)))) := ⟨smoke_default, rfl⟩
  refine ⟨_, _, _, _, _, read_goes_on ready_reset 0, rfl, read_goes_on h0 1,
    runOps_cons_eq_next_iff.2 ⟨_, fire_goes_on h1, rfl⟩, read_goes_on h2 2, rfl, read_goes_on h3 3, by decide⟩

/-- SnapshotReadsTheCounters, WakesAreTheirOperations: a wake of a ready machine that takes a snapshot over a firing, after a
firing and after a wake without a session. -/
theorem witness_wake :
    ∃ p, runWakes .skip [⟨[.fire], false, {}⟩, ⟨[.fire], true, { afterRead1 := [.fire] }⟩] State.reset = .next p ∧
      p.lines.length = 1 := by
  have h : (match runWakes .skip [⟨[.fire], false, {}⟩, ⟨[.fire], true, { afterRead1 := [.fire] }⟩] State.reset with
      | .next p => some p.lines.length
      | .fault _ => none
      | .refused _ => none) = some 1 := by decide
  generalize runWakes .skip [⟨[.fire], false, {}⟩, ⟨[.fire], true, { afterRead1 := [.fire] }⟩] State.reset = o at h
  cases o with
  | next p => exact ⟨p, rfl, Option.some.inj h⟩
  | fault f => cases h
  | refused r => cases h

/-- ExactRatioIsBetweenZeroAndFour: the ratio of four equal counts, and that of counts all on macro-state 0. -/
theorem witness_exact_ratio :
    Snapshot.ratio (cw := 32) ⟨7, 7, 7, 7⟩ = some 1 ∧ Snapshot.ratio (cw := 32) ⟨7, 0, 0, 0⟩ = some 4 := by
  refine ⟨(Snapshot.ratio_of_total (m := 7) (n := 28) (by decide) (by decide) (by decide)).trans ?_,
    (Snapshot.ratio_of_total (m := 7) (n := 7) (by decide) (by decide) (by decide)).trans ?_⟩ <;> norm_num

/-- PrintedRatioIsNearest: an exact quotient, and a tie. -/
theorem witness_ratio : 0 < 10 ∧ 5 ≤ 10 ∧ 0 < 16000 ∧ 2 ≤ 16000 ∧ 2 * (4000 * 2 % 16000) = 16000 := by decide

end Sys2Proof.Tests
end

section
/-! PROOF. The packed `STATE` in numbers (30_encoding R64): what its two fields are worth, what packing two fields gives,
and that the two readings agree. -/

namespace Sys2Proof

open Machine

@[simp] theorem macroIndex_toNat (k : Nat) (st : BitVec (k + 2)) : (macroIndex k st).toNat = st.toNat / 2 ^ k := by
  have hlt : st.toNat / 2 ^ k < 2 ^ 2 := Nat.div_lt_of_lt_mul (by rw [← pow_add]; exact st.isLt)
  rw [macroIndex, BitVec.extractLsb'_toNat, Nat.shiftRight_eq_div_pow, Nat.mod_eq_of_lt hlt]

@[simp] theorem substep_toNat (k : Nat) (st : BitVec (k + 2)) : (substep k st).toNat = st.toNat % 2 ^ k := by
  rw [substep, BitVec.extractLsb'_toNat, Nat.shiftRight_zero]

/-- Packing is landing on the macro-state with the sub-step put into the zero low bits. -/
theorem pack_eq_landOn_or (k : Nat) (m : MacroState) (sub : BitVec k) :
    pack k m sub = landOn k m ||| sub.setWidth (k + 2) := rfl

/-- The fields do not overlap, so the disjunction of the packing is a sum. -/
@[simp] theorem pack_toNat (k : Nat) (m : MacroState) (sub : BitVec k) :
    (pack k m sub).toNat = m.toNat * 2 ^ k + sub.toNat := by
  rw [pack_eq_landOn_or, BitVec.toNat_or, landOn_toNat, BitVec.toNat_setWidth_of_le (Nat.le_add_right k 2),
    Nat.mul_comm, Nat.two_pow_add_eq_or_of_lt sub.isLt]

/-- The fields lose nothing of the state. -/
@[simp] theorem pack_macroIndex_substep (k : Nat) (st : BitVec (k + 2)) :
    pack k (macroIndex k st) (substep k st) = st := by
  apply BitVec.eq_of_toNat_eq
  rw [pack_toNat, macroIndex_toNat, substep_toNat, Nat.div_add_mod']

@[simp] theorem pack_zero_zero (k : Nat) : pack k 0 0 = 0 := by
  apply BitVec.eq_of_toNat_eq
  simp

/-- The origin, macro-state 0 and substep 0, is the one value 0 of the packed state. -/
theorem state_eq_zero_iff (k : Nat) (st : BitVec (k + 2)) : st = 0 ↔ macroIndex k st = 0 ∧ substep k st = 0 := by
  constructor
  · rintro rfl
    exact ⟨BitVec.eq_of_toNat_eq (by simp), BitVec.eq_of_toNat_eq (by simp)⟩
  · rintro ⟨hm, hs⟩
    rw [← pack_macroIndex_substep k st, hm, hs, pack_zero_zero]

/-- Settles O22, each conjunct by its own law of the packed state. -/
theorem packedStateFields : Obligations.PackedStateFields := fun k st =>
  ⟨macroIndex_toNat k st, substep_toNat k st, pack_macroIndex_substep k st, pack_toNat k, state_eq_zero_iff k st⟩

end Sys2Proof
end

section
/-! PROOF. The generator (40_lfsr R80, R81): the bits of one step, the four steps of a draw, and the register along the
firings. -/

namespace Sys2Proof

open Machine

@[simp] theorem lfsrStep_fst (x : LfsrWord) : (lfsrStep x).1 = x[0] := rfl

theorem lfsrStep_snd (x : LfsrWord) : (lfsrStep x).2 = if x[0] = true then (x >>> 1) ^^^ tap else x >>> 1 := rfl

/-- One law for all the bits: each takes its left neighbour's value, and the feedback reaches those the mask selects. -/
theorem lfsrStep_snd_getLsbD (x : LfsrWord) (j : Nat) :
    (lfsrStep x).2.getLsbD j = (x.getLsbD (j + 1) ^^ (x[0] && tap.getLsbD j)) := by
  rw [lfsrStep_snd]
  cases x[0] <;> simp [Nat.add_comm 1 j]

/-- The bits that lie inside the word, in the notation the rule is stated in. -/
theorem lfsrStep_snd_getElem (x : LfsrWord) (j : Nat) (h : j < 16) :
    (lfsrStep x).2[j] = (x.getLsbD (j + 1) ^^ (x[0] && tap.getLsbD j)) := by
  rw [← BitVec.getLsbD_eq_getElem, lfsrStep_snd_getLsbD]

/-- The mask leaves the low ten bits alone. -/
theorem tap_getLsbD_of_le_nine : ∀ j ≤ 9, tap.getLsbD j = false := by decide

/-- Settles O15: the listed bits are instances of the law of all bits, read off at the bits of the mask. -/
theorem lfsrStepBitByBit : Obligations.LfsrStepBitByBit := by
  intro x
  refine ⟨lfsrStep_fst x, lfsrStep_snd x, ?_, ?_, ?_, ?_, ?_, ?_, fun j hj => ?low⟩
  case low => simp [lfsrStep_snd_getLsbD, tap_getLsbD_of_le_nine j hj]
  all_goals simp [lfsrStep_snd_getElem, tap]

/-- The four bits of a draw as a number (30_encoding R65). -/
theorem drawOf_toNat (b1 b2 b3 b4 : Bool) :
    (drawOf b1 b2 b3 b4).toNat = 8 * b1.toNat + 4 * b2.toNat + 2 * b3.toNat + b4.toNat := by
  revert b1 b2 b3 b4
  decide

/-- `NEXT4` from the four steps it makes. -/
theorem next4_eq_of_steps {x x1 x2 x3 x4 : LfsrWord} {b1 b2 b3 b4 : Bool} (h1 : lfsrStep x = (b1, x1))
    (h2 : lfsrStep x1 = (b2, x2)) (h3 : lfsrStep x2 = (b3, x3)) (h4 : lfsrStep x3 = (b4, x4)) :
    next4 x = (drawOf b1 b2 b3 b4, x4) := by
  simp only [next4, h1, h2, h3, h4]

theorem next4_snd (x : LfsrWord) : (next4 x).2 = (fun y => (lfsrStep y).2)^[4] x := rfl

/-- Along `n` firings the register makes four steps for each; neither the walk nor the outputs write it. -/
theorem fires_lfsr (c : Config) (b : Block c.k c.cw) (n : Nat) :
    (Block.fires c n b).lfsr = (fun y => (lfsrStep y).2)^[4 * n] b.lfsr := by
  induction n generalizing b with
  | zero => rfl
  | succ n ih =>
    rw [fires_succ, ih, fire_eq_fireWith, fireWith_lfsr, next4_snd, ← Function.iterate_add_apply, Nat.mul_succ]

/-- Settles O16: the draw from its four steps, and the register by induction on the firings. -/
theorem next4IsFourStepsOncePerFiring : Obligations.Next4IsFourStepsOncePerFiring := by
  refine ⟨?_, fires_lfsr⟩
  intro x x1 x2 x3 x4 b1 b2 b3 b4 h1 h2 h3 h4
  rw [next4_eq_of_steps h1 h2 h3 h4]
  exact ⟨rfl, drawOf_toNat b1 b2 b3 b4⟩

end Sys2Proof
end

section
/-! PROOF. The transition engine in numbers (41_transition R90, R92, R95, R96): when the sub-step wraps, which row is then
read, the two outcomes of `ADVANCE`, and the counter it increments. -/

namespace Sys2Proof

open Machine

/-- The sub-step wraps exactly where the incremented state is a multiple of `2^K`. -/
theorem transitionedBy_nextPacked (k : Nat) (st : BitVec (k + 2)) :
    transitionedBy k (nextPacked k st) = decide ((st.toNat + 1) % 2 ^ k = 0) := by
  rw [transitionedBy, nextPacked_toNat]
  rfl

/-- A wrap carries one into the macro-state, whatever that is. -/
theorem succ_div_of_wrap {k n : Nat} (h : (n + 1) % 2 ^ k = 0) : (n + 1) / 2 ^ k = n / 2 ^ k + 1 := by
  rw [Nat.succ_div, if_pos (Nat.dvd_of_mod_eq_zero h)]

/-- The row read at a wrap is the macro-state before the increment (R92). -/
theorem rowOf_nextPacked_of_wrap {k : Nat} {st : BitVec (k + 2)} (h : (st.toNat + 1) % 2 ^ k = 0) :
    rowOf k (nextPacked k st) = macroIndex k st := by
  have hm : (nextPacked k st >>> k).toNat = (macroIndex k st).toNat + 1 := by
    rw [BitVec.toNat_ushiftRight, nextPacked_toNat, Nat.shiftRight_eq_div_pow, succ_div_of_wrap h, macroIndex_toNat]
  have h1 : (1#(k + 3)).toNat = 1 := BitVec.toNat_one (by omega)
  have hle : 1#(k + 3) ≤ nextPacked k st >>> k := BitVec.le_def.2 (by omega)
  apply BitVec.eq_of_toNat_eq
  rw [rowOf, BitVec.toNat_setWidth, BitVec.ofNat_eq_ofNat, BitVec.toNat_sub_of_le hle, hm, h1, Nat.add_sub_cancel,
    Nat.mod_eq_of_lt (macroIndex k st).isLt]

/-- `ADVANCE` at a wrap: it lands on the looked-up macro-state. -/
theorem advance_of_wrap {c : Config} {st : BitVec (c.k + 2)} (h : (st.toNat + 1) % 2 ^ c.k = 0) (d : Draw) :
    advance c st d =
      { state := landOn c.k (lookup c (macroIndex c.k st) d), transitioned := true,
        landed := some (lookup c (macroIndex c.k st) d) } := by
  simp only [advance, transitionedBy_nextPacked, h, rowOf_nextPacked_of_wrap h, decide_true, if_true]

/-- `ADVANCE` elsewhere: it counts the sub-step, and neither the draw nor the table matters (R91). -/
theorem advance_of_not_wrap {c : Config} {st : BitVec (c.k + 2)} (h : (st.toNat + 1) % 2 ^ c.k ≠ 0) (d : Draw) :
    advance c st d = { state := st + 1, transitioned := false, landed := none } := by
  have hstate : (nextPacked c.k st).setWidth (c.k + 2) = st + 1 := by
    rw [nextPacked, BitVec.setWidth_add _ _ (by omega), BitVec.setWidth_setWidth_of_le _ (by omega), BitVec.setWidth_eq]
    simp
  simp [advance, transitionedBy_nextPacked, h, hstate]

/-- The largest packed state is one at which the sub-step wraps, so elsewhere the increment does not. -/
theorem state_succ_toNat_of_not_wrap {k : Nat} {st : BitVec (k + 2)} (h : (st.toNat + 1) % 2 ^ k ≠ 0) :
    (st + 1).toNat = st.toNat + 1 := by
  have h1 : (1#(k + 2)).toNat = 1 := BitVec.toNat_one (by omega)
  have hlast : st.toNat + 1 ≠ 2 ^ (k + 2) := by
    intro heq
    exact h (by rw [heq, Nat.pow_add, Nat.mul_mod_right])
  have hlt := st.isLt
  rw [BitVec.ofNat_eq_ofNat, BitVec.toNat_add_of_lt (by rw [h1]; omega), h1]

/-- What `COUNT_INC` leaves in each counter (R95). -/
theorem cntRead_countInc {cw : Nat} (cnt : Vector (BitVec cw) 4) (n j : MacroState) :
    cntRead (countInc cnt n) j = if j = n then cntRead cnt j + 1 else cntRead cnt j := by
  rw [countInc, cntRead_cntWrite]
  split <;> simp_all

@[simp] theorem countLanded_some {cw : Nat} (cnt : Vector (BitVec cw) 4) (n : MacroState) :
    countLanded cnt (some n) = countInc cnt n := rfl

@[simp] theorem countLanded_none {cw : Nat} (cnt : Vector (BitVec cw) 4) : countLanded cnt none = cnt := rfl

section Advance

variable (c : Config) (b : Block c.k c.cw) (d : Draw)

@[simp] theorem Machine.Block.advance_state : (b.advance c d).state = (Machine.advance c b.state d).state := rfl
@[simp] theorem Machine.Block.advance_cnt :
    (b.advance c d).cnt = countLanded b.cnt (Machine.advance c b.state d).landed := rfl

end Advance

/-- Settles O24, each case by the outcome of `ADVANCE` there. -/
theorem advanceFollowsTheSteps : Obligations.AdvanceFollowsTheSteps := by
  intro c b draw
  refine ⟨fun hstay => ?_, fun hwrap => ?_, rfl, rfl, rfl, rfl, rfl⟩
  · rw [Block.advance_state, Block.advance_cnt, advance_of_not_wrap hstay]
    exact ⟨rfl, state_succ_toNat_of_not_wrap hstay, rfl⟩
  · rw [Block.advance_state, Block.advance_cnt, advance_of_wrap hwrap]
    refine ⟨macroIndex c.k b.state, _, ?_, rfl, rfl, landOn_toNat _ _, cntRead_countInc _ _⟩
    rw [macroIndex_toNat, succ_div_of_wrap hwrap, Nat.add_sub_cancel]

@[simp] theorem macroIndex_landOn (k : Nat) (m : MacroState) : macroIndex k (landOn k m) = m :=
  BitVec.eq_of_toNat_eq (by rw [macroIndex_toNat, landOn_toNat, Nat.mul_div_cancel _ (Nat.two_pow_pos k)])

@[simp] theorem substep_landOn (k : Nat) (m : MacroState) : substep k (landOn k m) = 0 :=
  BitVec.eq_of_toNat_eq (by rw [substep_toNat, landOn_toNat, Nat.mul_mod_left]; rfl)

/-- Settles O28: the firing lands on the macro-state it leaves. -/
theorem selfLoopIsATransition : Obligations.SelfLoopIsATransition := by
  intro s hready hwrap hloop
  have hadv := advance_of_wrap hwrap (next4 s.block.lfsr).1
  rw [hloop] at hadv
  refine ⟨by rw [hadv], s.block.fire s.cfg, exec_eq_next_iff.2 ⟨hready.1, fun _ => hready.2, rfl⟩, ?_⟩
  rw [fire_eq_fireWith, fireWith_state, fireWith_cnt, hadv]
  exact ⟨substep_landOn _ _, macroIndex_landOn _ _, cntRead_countInc _ _⟩

end Sys2Proof
end

section
/-! PROOF. The walk from the origin (41_transition R103, 00_scope R13): row 0 of a well-formed table, and the firings whose
draws are all 0. -/

namespace Sys2Proof

open Machine

theorem Config.WellFormed.row0_counts {c : Config} (h : c.WellFormed) :
    c.row0.count 1 = 14 ∧ c.row0.count 0 = 1 ∧ c.row0.count 3 = 1 := by
  simpa [Config.passes, and_assoc] using (c.wellFormed_iff_passes.1 h) .tableRow0Distribution

/-- Row 0 has the sixteen addresses from 0 on (20_memory R42). -/
theorem Config.row0_eq_map (c : Config) : c.row0 = (List.finRange 16).map fun d => c.table[d.val] :=
  List.ext_getElem (by simp [Config.row0]) (by simp [Config.row0])

/-- A checked entry is two bits wide, so the lookup answers it as it stands (R93). -/
theorem lookup_toNat_of_stutter {c : Config} (hw : c.WellFormed) (hm : c.mode = .stutter) (row : MacroState) (d : Draw) :
    (lookup c row d).toNat = c.table[(tableAddr row d).toNat]'(tableAddr row d).isLt := by
  simp only [lookup, romRead, hm, tableEntry, BitVec.toNat_ofNat]
  exact Nat.mod_eq_of_lt (hw.entry_lt (by simp))

/-- How many draws lead from macro-state 0 to `m` is how many entries of row 0 hold it. -/
theorem countP_lookup_origin {c : Config} (hw : c.WellFormed) (hm : c.mode = .stutter) (m : MacroState) :
    ((List.finRange 16).countP fun d => lookup c 0 (BitVec.ofFin d) = m) = c.row0.count m.toNat := by
  rw [c.row0_eq_map, List.count, List.countP_map]
  refine List.countP_congr fun d _ => ?_
  have hd : (tableAddr 0 (BitVec.ofFin d)).toNat = d.val := by
    revert d
    decide
  simp only [← BitVec.toNat_inj, lookup_toNat_of_stutter hw hm, hd]
  simp

/-- What exactly one index of a range satisfies, no two of them do. -/
theorem eq_of_countP_finRange_eq_one {n : Nat} {p : Fin n → Bool} (h : (List.finRange n).countP p = 1) {a b : Fin n}
    (ha : p a = true) (hb : p b = true) : a = b := by
  rw [List.countP_eq_length_filter, List.length_eq_one_iff] at h
  obtain ⟨x, hx⟩ := h
  have hmem {i : Fin n} (hi : p i = true) : i = x := by
    rw [← List.mem_singleton, ← hx]
    simp [hi]
  rw [hmem ha, hmem hb]

/-- Draw 0 stays at macro-state 0, and no other draw does. -/
theorem lookup_origin_eq_zero_iff {c : Config} (hw : c.WellFormed) (hm : c.mode = .stutter) (d : Draw) :
    lookup c 0 d = 0 ↔ d = 0 := by
  have hzero : lookup c 0 0 = 0 :=
    BitVec.eq_of_toNat_eq ((lookup_toNat_of_stutter hw hm 0 0).trans hw.origin_self_loop)
  obtain ⟨-, hzeros, -⟩ := hw.row0_counts
  have hone := (countP_lookup_origin hw hm 0).trans hzeros
  constructor
  · intro hd
    have hfin : d.toFin = 0 := eq_of_countP_finRange_eq_one hone (decide_eq_true hd) (decide_eq_true hzero)
    exact congrArg BitVec.ofFin hfin
  · rintro rfl
    exact hzero

theorem firesWith_append (c : Config) (ds es : List Draw) (b : Block c.k c.cw) :
    Block.firesWith c (ds ++ es) b = Block.firesWith c es (Block.firesWith c ds b) := by
  induction ds generalizing b with
  | nil => rfl
  | cons d ds ih => exact ih (b.fireWith c d)

/-- The last of `n + 1` firings with one draw comes after the `n` others. -/
theorem firesWith_replicate_succ (c : Config) (d : Draw) (n : Nat) (b : Block c.k c.cw) :
    Block.firesWith c (List.replicate (n + 1) d) b = (Block.firesWith c (List.replicate n d) b).fireWith c d := by
  rw [List.replicate_succ', firesWith_append]
  rfl

/-- The indicator after a firing shows arrival at macro-state 0, substep 0 (42_output R105). -/
theorem fireWith_led_iff (c : Config) (d : Draw) (b : Block c.k c.cw) :
    (b.fireWith c d).led = true ↔ (b.fireWith c d).state = 0 := by
  have hled : (b.fireWith c d).led = (drive c.k (b.fireWith c d).state b.tock).led := by rw [fireWith_outputs]
  rw [hled, drive_eq]
  split <;> simp_all

/-- In macro-state 0 the packed state is the sub-step. -/
theorem macroIndex_eq_zero_iff {k : Nat} {st : BitVec (k + 2)} : macroIndex k st = 0 ↔ st.toNat < 2 ^ k := by
  rw [← BitVec.toNat_inj, macroIndex_toNat]
  exact Nat.div_eq_zero_iff_lt (Nat.two_pow_pos k)

section Origin

variable {c : Config} (hw : c.WellFormed) (hm : c.mode = .stutter)
include hw hm

/-- With draw 0 a transition out of macro-state 0 is the self-loop at the origin. -/
theorem advance_zero_of_wrap {st : BitVec (c.k + 2)} (h0 : st.toNat < 2 ^ c.k)
    (hwrap : (st.toNat + 1) % 2 ^ c.k = 0) :
    advance c st 0 = { state := 0, transitioned := true, landed := some 0 } := by
  have hland : landOn c.k 0 = 0 := BitVec.eq_of_toNat_eq (by simp [landOn_toNat])
  rw [advance_of_wrap hwrap, macroIndex_eq_zero_iff.2 h0, (lookup_origin_eq_zero_iff hw hm 0).2 rfl, hland]

/-- A firing with draw 0 in macro-state 0 counts the sub-step modulo `2^K`. -/
theorem fireWith_zero_state {b : Block c.k c.cw} (h0 : b.state.toNat < 2 ^ c.k) :
    (b.fireWith c 0).state.toNat = (b.state.toNat + 1) % 2 ^ c.k := by
  rw [fireWith_state]
  by_cases hwrap : (b.state.toNat + 1) % 2 ^ c.k = 0
  · rw [advance_zero_of_wrap hw hm h0 hwrap, hwrap]
    rfl
  · have hne : b.state.toNat + 1 ≠ 2 ^ c.k := fun e => hwrap (by rw [e, Nat.mod_self])
    rw [advance_of_not_wrap hwrap, state_succ_toNat_of_not_wrap hwrap, Nat.mod_eq_of_lt (by omega)]

/-- A firing with draw 0 in macro-state 0 increments `CNT[0]` where the sub-step wraps. -/
theorem fireWith_zero_cnt {b : Block c.k c.cw} (h0 : b.state.toNat < 2 ^ c.k) :
    (cntRead (b.fireWith c 0).cnt 0).toNat =
      ((cntRead b.cnt 0).toNat + if (b.state.toNat + 1) % 2 ^ c.k = 0 then 1 else 0) % 2 ^ c.cw := by
  rw [fireWith_cnt]
  by_cases hwrap : (b.state.toNat + 1) % 2 ^ c.k = 0
  · rw [advance_zero_of_wrap hw hm h0 hwrap, countLanded_some, cntRead_countInc, if_pos rfl, if_pos hwrap]
    simp
  · rw [advance_of_not_wrap hwrap, countLanded_none, if_neg hwrap, Nat.add_zero, Nat.mod_eq_of_lt (BitVec.isLt _)]

variable {b : Block c.k c.cw} (hb : b.state = 0)
include hb

/-- With all draws 0 from the origin the packed state is the number of firings modulo `2^K`, for every `K`. -/
theorem firesWith_zero_state (n : Nat) :
    (Block.firesWith c (List.replicate n 0) b).state.toNat = n % 2 ^ c.k := by
  induction n with
  | zero => simp [Block.firesWith, hb]
  | succ n ih =>
    have h0 := ih ▸ Nat.mod_lt n (Nat.two_pow_pos c.k)
    rw [firesWith_replicate_succ, fireWith_zero_state hw hm h0, ih, Nat.mod_add_mod]

/-- With all draws 0 from the origin the indicator is lit after every `2^K`-th firing. -/
theorem firesWith_zero_led_iff {n : Nat} (hn : 0 < n) :
    (Block.firesWith c (List.replicate n 0) b).led = true ↔ n % 2 ^ c.k = 0 := by
  have hled : (Block.firesWith c (List.replicate n 0) b).led = true ↔
      (Block.firesWith c (List.replicate n 0) b).state = 0 := by
    obtain ⟨m, rfl⟩ := Nat.exists_eq_succ_of_ne_zero hn.ne'
    rw [firesWith_replicate_succ]
    exact fireWith_led_iff ..
  rw [hled, ← firesWith_zero_state hw hm hb n, ← BitVec.toNat_inj]
  rfl

/-- With all draws 0 from the origin `CNT[0]` counts the wraps of the sub-step. -/
theorem firesWith_zero_cnt (n : Nat) : (cntRead (Block.firesWith c (List.replicate n 0) b).cnt 0).toNat =
    ((cntRead b.cnt 0).toNat + n / 2 ^ c.k) % 2 ^ c.cw := by
  induction n with
  | zero => simp [Block.firesWith]
  | succ n ih =>
    have hstate := firesWith_zero_state hw hm hb n
    have h0 := hstate ▸ Nat.mod_lt n (Nat.two_pow_pos c.k)
    rw [firesWith_replicate_succ, fireWith_zero_cnt hw hm h0, ih, hstate, Nat.mod_add_mod, Nat.mod_add_mod, Nat.succ_div,
      Nat.add_assoc]
    simp only [Nat.dvd_iff_mod_eq_zero]

end Origin

/-- Settles O31: row 0 by its counts, and the walk at `K = 1` from the walk at every `K`. -/
theorem allZeroDrawsStayAtTheOrigin : Obligations.AllZeroDrawsStayAtTheOrigin := by
  intro c hw hm
  obtain ⟨hones, -, hthrees⟩ := hw.row0_counts
  refine ⟨(countP_lookup_origin hw hm 1).trans hones, (countP_lookup_origin hw hm 3).trans hthrees,
    lookup_origin_eq_zero_iff hw hm, by decide, fun hk b n hb => ?_⟩
  have hpow : 2 ^ c.k = 2 := by rw [hk, Nat.pow_one]
  have hstate := firesWith_zero_state hw hm hb n
  have hled := fun hn => firesWith_zero_led_iff hw hm hb (n := n) hn
  have hcnt := firesWith_zero_cnt hw hm hb n
  rw [hpow] at hstate hcnt
  simp only [hpow] at hled
  exact ⟨hstate, hled, hcnt⟩

end Sys2Proof
end

section
/-! PROOF. The outputs of a firing (42_output R105, R108): what `DRIVE` writes where there is no tick event, and that it
reads none of the three lines. -/

namespace Sys2Proof

open Machine

/-- A ready machine's `FIRE` is the edge of one firing (44_operations R132). -/
theorem Ready.exec_fire {s : State} (h : Ready s) : exec .fire s = .next (edgeOf .fire s) := by
  obtain ⟨hwf, hlive⟩ := h
  exact exec_eq_next_iff.2 ⟨hwf, fun _ => hlive, rfl⟩

/-- A firing that does not arrive at the origin lowers the three lines and keeps `TOCK` (R108). -/
theorem fireWith_outputs_of_state_ne_zero {c : Config} {d : Draw} {b : Block c.k c.cw}
    (h : (b.fireWith c d).state ≠ 0) :
    (b.fireWith c d).led = false ∧ (b.fireWith c d).actA = false ∧ (b.fireWith c d).actB = false ∧
      (b.fireWith c d).tock = b.tock := by
  have hout := fireWith_outputs c d b
  rw [drive_eq, if_neg h, Driven.mk.injEq] at hout
  obtain ⟨htock, hled, hactA, hactB⟩ := hout
  exact ⟨hled.symm, hactA.symm, hactB.symm, htock.symm⟩

/-- A firing does not depend on the lines before it: it reads none of them and writes all three (R105). -/
theorem fireWith_forgets_lines (c : Config) (d : Draw) (b : Block c.k c.cw) (led actA actB : Bool) :
    Block.fireWith c d { b with led := led, actA := actA, actB := actB } = b.fireWith c d := rfl

/-- So neither does the state a firing leaves. -/
theorem edgeOf_fire_forgets_lines (s : State) (led actA actB : Bool) :
    edgeOf .fire { s with block := { s.block with led := led, actA := actA, actB := actB } } = edgeOf .fire s :=
  congrArg (s.afterEdge · 0) (fireWith_forgets_lines s.cfg (next4 s.block.lfsr).1 s.block led actA actB)

/-- Settles O32: the first part by what `DRIVE` writes off the origin, the second as no firing reads the lines. -/
theorem otherFiringsLowerThePins : Obligations.OtherFiringsLowerThePins := by
  refine ⟨fun s hready hne => ?_, fun s led actA actB hready => ?_⟩
  · exact ⟨s.block.fire s.cfg, hready.exec_fire, fireWith_outputs_of_state_ne_zero hne⟩
  · have hready' : Ready { s with block := { s.block with led := led, actA := actA, actB := actB } } := hready
    exact ⟨edgeOf .fire s, hready.exec_fire,
      hready'.exec_fire.trans (congrArg _ (edgeOf_fire_forgets_lines s led actA actB))⟩

end Sys2Proof
end

section
/-! PROOF. The counters as landing counts (10_state R25, 43_counters_read R115): what firings leave in a counter, and what a
run without a reset leaves of the state. -/

namespace Sys2Proof

open Machine

/-- A ready machine's operations all go on. -/
theorem Ready.exec_eq_edgeOf {s : State} (h : Ready s) (i : Instr) : exec i s = .next (edgeOf i s) := by
  obtain ⟨hwf, hlive⟩ := h
  exact exec_eq_next_iff.2 ⟨hwf, fun _ => hlive, rfl⟩

/-- `ADVANCE` adds one, modulo `2^CW`, to the counter landed on and keeps the others (R95, R100). -/
theorem cntRead_countLanded_toNat {cw : Nat} (cnt : Vector (BitVec cw) 4) (landed : Option MacroState) (j : CntIdx) :
    (cntRead (countLanded cnt landed) j).toNat =
      ((cntRead cnt j).toNat + if landed = some j then 1 else 0) % 2 ^ cw := by
  cases landed with
  | none => simp
  | some n =>
    rw [countLanded_some, cntRead_countInc]
    by_cases h : j = n
    · simp [h]
    · simp [h, Ne.symm h]

/-- Along `n` firings a counter grows by the landings on it, modulo `2^CW`. -/
theorem fires_cntRead_toNat (c : Config) (i : CntIdx) (n : Nat) (b : Block c.k c.cw) :
    (cntRead (Block.fires c n b).cnt i).toNat = ((cntRead b.cnt i).toNat + landingsIn c i n b) % 2 ^ c.cw := by
  induction n generalizing b with
  | zero => simp [Block.fires, landingsIn]
  | succ n ih =>
    rw [fires_succ, ih, fire_eq_fireWith, fireWith_cnt, cntRead_countLanded_toNat, Nat.mod_add_mod, Nat.add_assoc]
    rfl

/-- Reset clears every counter (10_state R34). -/
theorem atReset_cntRead (c : Config) (i : CntIdx) : cntRead (Block.atReset c).cnt i = 0 := by
  simp [cntRead, Block.atReset]

/-- An operation other than `RESET` leaves the block after its firings, at most one, and writes the bus besides. -/
theorem edgeOf_eq_fires {i : Instr} (hi : i ≠ .reset) (s : State) :
    ∃ v, edgeOf i s = s.afterEdge (Block.fires s.cfg (firings [i]) s.block) v := by
  cases i with
  | reset => exact absurd rfl hi
  | fire => exact ⟨_, rfl⟩
  | read j => exact ⟨_, rfl⟩
  | fireRead j => exact ⟨_, rfl⟩
  | idle => exact ⟨_, rfl⟩

theorem firings_cons (i : Instr) (ops : List Instr) : firings (i :: ops) = firings [i] + firings ops :=
  List.countP_append (l₁ := [i])

/-- A run without a reset leaves the block after its firings, and writes the bus besides. -/
theorem runOps_eq_fires {ops : List Instr} {s t : State} (hops : Instr.reset ∉ ops) (h : runOps ops s = .next t) :
    ∃ v, t = s.afterEdge (Block.fires s.cfg (firings ops) s.block) v := by
  induction ops generalizing s with
  | nil =>
    cases h
    exact ⟨t.rdData, rfl⟩
  | cons i ops ih =>
    rw [List.mem_cons, not_or] at hops
    obtain ⟨hi, hops⟩ := hops
    obtain ⟨u, hu, ht⟩ := runOps_cons_eq_next_iff.1 h
    obtain ⟨-, -, rfl⟩ := exec_eq_next_iff.1 hu
    obtain ⟨w, hw⟩ := edgeOf_eq_fires (Ne.symm hi) s
    rw [hw] at ht
    obtain ⟨v, rfl⟩ := ih hops ht
    rw [firings_cons i ops, fires_add]
    exact ⟨v, rfl⟩

/-- Settles O41: the reads of a ready machine by the edge each leaves, the value after a run by the landings along its
firings. -/
theorem readReturnsTheCounter : Obligations.ReadReturnsTheCounter := by
  refine ⟨fun s i hready => ?_, fun c ops t i hwf hops hrun => ?_⟩
  · have hready' : Ready (edgeOf (.read i) s) := hready
    exact ⟨hready.exec_eq_edgeOf _, hready'.exec_eq_edgeOf _, _, hready.exec_eq_edgeOf _, rfl⟩
  · obtain ⟨v, rfl⟩ := runOps_eq_fires hops hrun
    have hready : Ready ((State.resetOf c).afterEdge (Block.fires c (firings ops) (Block.atReset c)) v) := ⟨hwf, rfl⟩
    refine ⟨_, hready.exec_eq_edgeOf _, ?_⟩
    calc (cntRead (Block.fires c (firings ops) (Block.atReset c)).cnt i).toNat
        = ((cntRead (Block.atReset c).cnt i).toNat + landingsIn c i (firings ops) (Block.atReset c)) % 2 ^ c.cw :=
          fires_cntRead_toNat c i _ _
      _ = landingsIn c i (firings ops) (Block.atReset c) % 2 ^ c.cw := by simp [atReset_cntRead]

end Sys2Proof
end

section
/-! PROOF. A firing as a whole (44_operations R132): it always changes `STATE`, counts only on a transition and toggles
`TOCK` exactly at arrival at `STATE = 0`. -/

namespace Sys2Proof

open Machine

/-- With a sub-step counter of at least one bit `ADVANCE` never stays: a landing clears a sub-step that was not zero, and
elsewhere the increment does not wrap (R132). -/
theorem advance_state_ne {c : Config} (hk : 1 ≤ c.k) (st : BitVec (c.k + 2)) (d : Draw) :
    (advance c st d).state ≠ st := by
  intro hstay
  by_cases hwrap : (st.toNat + 1) % 2 ^ c.k = 0
  · rw [advance_of_wrap hwrap] at hstay
    have hland : 2 ^ c.k ∣ st.toNat := by
      rw [← hstay, landOn_toNat]
      exact Nat.dvd_mul_left ..
    have hone : 2 ^ c.k ∣ 1 := (Nat.dvd_add_right hland).1 (Nat.dvd_of_mod_eq_zero hwrap)
    exact absurd (Nat.dvd_one.1 hone) (Nat.one_lt_two_pow (by omega)).ne'
  · have hsucc := state_succ_toNat_of_not_wrap hwrap
    rw [advance_of_not_wrap hwrap] at hstay
    have hnum : (st + 1).toNat = st.toNat := congrArg BitVec.toNat hstay
    omega

/-- Without a transition `ADVANCE` lands nowhere (R100). -/
theorem advance_landed_of_not_transitioned {c : Config} {st : BitVec (c.k + 2)} {d : Draw}
    (h : (advance c st d).transitioned = false) : (advance c st d).landed = none := by
  by_cases hwrap : (st.toNat + 1) % 2 ^ c.k = 0
  · rw [advance_of_wrap hwrap] at h
    exact absurd h nofun
  · rw [advance_of_not_wrap hwrap]

/-- A firing without a transition keeps every counter (R132). -/
theorem fireWith_cnt_of_not_transitioned {c : Config} {d : Draw} {b : Block c.k c.cw}
    (h : (advance c b.state d).transitioned = false) : (b.fireWith c d).cnt = b.cnt := by
  rw [fireWith_cnt, advance_landed_of_not_transitioned h, countLanded_none]

/-- A firing changes `TOCK` exactly where it arrives at the origin (R107, R108). -/
theorem fireWith_tock_ne_iff (c : Config) (d : Draw) (b : Block c.k c.cw) :
    (b.fireWith c d).tock ≠ b.tock ↔ (b.fireWith c d).state = 0 := by
  by_cases h : (b.fireWith c d).state = 0
  · have hout := fireWith_outputs c d b
    rw [drive_eq, if_pos h, Driven.mk.injEq] at hout
    obtain ⟨htock, -⟩ := hout
    exact iff_of_true (htock ▸ Bool.not_ne_self b.tock) h
  · obtain ⟨-, -, -, htock⟩ := fireWith_outputs_of_state_ne_zero h
    exact iff_of_false (not_not_intro htock) h

/-- Settles O38: the edge a ready machine's `FIRE` leaves, then each register of the firing by its own law. -/
theorem fireIsDrawAdvanceDrive : Obligations.FireIsDrawAdvanceDrive := by
  intro s hready
  refine ⟨hready.exec_fire, fireWith_lfsr .., ?_, fireWith_cnt_of_not_transitioned, fireWith_tock_ne_iff .., ?_⟩
  · obtain ⟨hwf, -⟩ := hready
    rw [fire_eq_fireWith, fireWith_state]
    exact advance_state_ne hwf.k_pos _ _
  · exact fireWith_forgets_lines s.cfg (next4 s.block.lfsr).1 s.block

end Sys2Proof
end

section
/-! PROOF. The request words (30_encoding R60 to R63, R72): the decoder and the encoder against each other. -/

namespace Sys2Proof

open Machine

/-- A word selects an operation exactly where it agrees with the operation's canonical word on the bits that are not ignored
(R61, R72), over all 32 words of the five pins. -/
theorem decodeReq_eq_iff (i : Instr) (w : Req) : decodeReq w = i ↔ w &&& careMask i = encode i := by
  cases i with
  | reset => revert w; decide
  | fire => revert w; decide
  | read j => revert w j; decide
  | fireRead j => revert w j; decide
  | idle => revert w; decide

/-- The canonical word of every operation has its ignored bits 0. -/
theorem encode_and_careMask (i : Instr) : encode i &&& careMask i = encode i := by
  cases i with
  | reset => exact Laws.CanonicalWord.reset
  | fire => exact Laws.CanonicalWord.fire
  | read j => exact Laws.CanonicalWord.read j
  | fireRead j => exact Laws.CanonicalWord.fireRead j
  | idle => exact Laws.CanonicalWord.idle

@[simp] theorem decodeReq_encode (i : Instr) : decodeReq (encode i) = i :=
  (decodeReq_eq_iff i _).2 (encode_and_careMask i)

/-- A request word laid out in a byte sets no bit above bit 4, and its low five bits are the word. -/
theorem decodeBytes_setWidth (w : Req) (rest : List Byte) :
    decodeBytes (w.setWidth 8 :: rest) = .ok (decodeReq w, rest) := by
  have hbyte : (w.setWidth 8).toNat = w.toNat := BitVec.toNat_setWidth_of_le (by omega)
  rw [decodeBytes, if_pos (hbyte ▸ w.isLt), BitVec.setWidth_setWidth_of_le w (by omega), BitVec.setWidth_eq]

/-- Settles O2: the words one by one, then the byte of the canonical word. -/
theorem decodeInvertsEncode : Obligations.DecodeInvertsEncode := by
  refine ⟨decodeReq_eq_iff, fun i rest => ?_⟩
  rw [encodeByte, decodeBytes_setWidth, decodeReq_encode]

/-- Settles O1: each word agrees with its operation's canonical word on the bits that are not ignored. -/
theorem requestWordsDecode : Obligations.RequestWordsDecode := by
  simp only [Obligations.RequestWordsDecode, decodeReq_eq_iff]
  decide

end Sys2Proof
end

section
/-! PROOF. What an operation answers, its two stops included (00_scope R17, 10_state R35), and that it reads no request word
but its own. -/

namespace Sys2Proof

open Machine

/-- Every operation of an ill-formed configuration is refused by the first check that fails (R17). -/
theorem exec_of_firstFailure {s : State} {check : ConfigCheck} (h : s.cfg.firstFailure = some check) (i : Instr) :
    exec i s = .refused (.badConfig check) := by
  have hrefuse : ∀ k, whenWellFormed s k = .refused (.badConfig check) := fun k => by rw [whenWellFormed, h]
  cases i <;> exact hrefuse _

/-- A well-formed configuration that has not been reset gives a firing and a read no meaning (R35). -/
theorem exec_of_not_live {i : Instr} {s : State} (hwf : s.cfg.WellFormed) (hi : needsReset i = true)
    (hlive : s.live = false) : exec i s = .fault .beforeReset := by
  have hstop : ∀ k, whenWellFormed s (whenLive s k) = .fault .beforeReset := fun k => by
    rw [whenWellFormed_of_wellFormed hwf, whenLive, hlive]
    rfl
  cases i with
  | reset => cases hi
  | fire => exact hstop _
  | read j => exact hstop _
  | fireRead j => exact hstop _
  | idle => cases hi

/-- The three things an operation can do. -/
theorem exec_cases (i : Instr) (s : State) :
    (∃ check, s.cfg.firstFailure = some check ∧ exec i s = .refused (.badConfig check)) ∨
      (s.cfg.WellFormed ∧ (needsReset i = true ∧ s.live = false) ∧ exec i s = .fault .beforeReset) ∨
      (s.cfg.WellFormed ∧ (needsReset i = true → s.live = true) ∧ exec i s = .next (edgeOf i s)) := by
  cases hcheck : s.cfg.firstFailure with
  | some check => exact .inl ⟨check, rfl, exec_of_firstFailure hcheck i⟩
  | none =>
    by_cases hstop : needsReset i = true ∧ s.live = false
    · obtain ⟨hi, hlive⟩ := hstop
      exact .inr (.inl ⟨hcheck, ⟨hi, hlive⟩, exec_of_not_live hcheck hi hlive⟩)
    · have hgo : needsReset i = true → s.live = true := by simpa using hstop
      exact .inr (.inr ⟨hcheck, hgo, exec_eq_next_iff.2 ⟨hcheck, hgo, rfl⟩⟩)

section Edge

variable (i : Instr) (s : State)

@[simp] theorem edgeOf_cfg : (edgeOf i s).cfg = s.cfg := by cases i <;> rfl

@[simp] theorem edgeOf_req : (edgeOf i s).req = s.req := by cases i <;> rfl

/-- Only `RESET` makes the machine live. -/
theorem edgeOf_live_iff : (edgeOf i s).live = true ↔ s.live = true ∨ i = .reset := by
  cases i <;> simp [edgeOf]

/-- The words of later edges pass through an operation. -/
theorem edgeOf_with_req (ws : List Req) : edgeOf i { s with req := ws } = { edgeOf i s with req := ws } := by
  cases i <;> rfl

end Edge

/-- An operation does not depend on the words of later edges. -/
theorem exec_with_req (i : Instr) (s : State) (ws : List Req) :
    exec i { s with req := ws } = andThen (exec i s) fun t => .next { t with req := ws } := by
  rcases exec_cases i s with ⟨check, hcheck, hexec⟩ | ⟨hwf, ⟨hi, hlive⟩, hexec⟩ | ⟨hwf, hgo, hexec⟩
  · rw [hexec, exec_of_firstFailure (s := { s with req := ws }) hcheck]
    rfl
  · rw [hexec, exec_of_not_live (s := { s with req := ws }) hwf hi hlive]
    rfl
  · rw [hexec, andThen_next, exec_eq_next_iff]
    exact ⟨hwf, hgo, edgeOf_with_req i s ws⟩

/-- Settles O3: the head of the list is decoded and taken off; the word of an empty list is that of `IDLE`. -/
theorem stepRunsDecodedInstruction : Obligations.StepRunsDecodedInstruction := by
  refine ⟨fun s w ws hreq => ?_, fun s hreq => ?_⟩
  · simp only [step, State.nextReq, State.dropReq, hreq, List.headD_cons, List.tail_cons]
  · have hdrop : s.dropReq = s := by rw [State.dropReq, hreq, List.tail_nil, ← hreq]
    rw [step, hdrop, State.nextReq, hreq, List.headD_nil]
    exact congrArg (exec · s) (decodeReq_encode .idle)

theorem runOps_cons (i : Instr) (ops : List Instr) (s : State) :
    runOps (i :: ops) s = andThen (exec i s) (runOps ops) := by
  rw [runOps]
  cases exec i s <;> rfl

theorem core_run_succ (n : Nat) (s : State) :
    Host.Core.run core (n + 1) s = andThen (step s) (Host.Core.run core n) := by
  simp only [Host.Core.run, Host.Check.core_step]
  cases step s <;> rfl

/-- The core runs the words listed, by induction on the list: no operation touches the words of later edges. -/
theorem core_run_eq_runOps (ws : List Req) (s : State) :
    Host.Core.run core ws.length { s with req := ws } = runOps (ws.map decodeReq) { s with req := [] } := by
  induction ws generalizing s with
  | nil => rfl
  | cons w ws ih =>
    have hnext : step { s with req := w :: ws } = exec (decodeReq w) { s with req := ws } := rfl
    rw [List.length_cons, core_run_succ, hnext, List.map_cons, runOps_cons, exec_with_req _ s ws, exec_with_req _ s []]
    cases exec (decodeReq w) s with
    | next t => exact ih t
    | fault f => rfl
    | refused r => rfl

/-- Settles O4: the words listed are all there are. -/
theorem stepsRunTheRequestsInOrder : Obligations.StepsRunTheRequestsInOrder := fun s => core_run_eq_runOps s.req s

theorem firings_append (ops ops' : List Instr) : firings (ops ++ ops') = firings ops + firings ops' :=
  List.countP_append

/-- An operation that does not fire may stand anywhere among strobes that are spaced. -/
theorem strobesSpaced_cons_of_not_firing {i : Instr} (hi : i.firing = false) (ops : List Instr) :
    strobesSpaced (i :: ops) = strobesSpaced ops := by
  cases ops <;> simp [strobesSpaced, hi]

/-- A firing and an idle edge keep the strobes after them spaced. -/
theorem strobesSpaced_fire_idle (ops : List Instr) : strobesSpaced (.fire :: .idle :: ops) = strobesSpaced ops := by
  have hidle : Instr.idle.firing = false := rfl
  rw [strobesSpaced, hidle, Bool.and_false, Bool.not_false, Bool.true_and, strobesSpaced_cons_of_not_firing hidle]

theorem expand_fires_succ (n : Nat) :
    (TraceLine.fires (n + 1)).expand = .fire :: .idle :: (TraceLine.fires n).expand := by
  simp [TraceLine.expand, List.replicate_succ]

/-- Settles O5, by induction on the number of firings. -/
theorem fireManyExpandsToSpacedFirings : Obligations.FireManyExpandsToSpacedFirings := by
  intro n
  induction n with
  | zero => exact ⟨rfl, rfl, nofun⟩
  | succ n ih =>
    obtain ⟨hcount, hspaced, hreset⟩ := ih
    rw [expand_fires_succ, strobesSpaced_fire_idle]
    refine ⟨?_, hspaced, by simpa using hreset⟩
    rw [firings_cons, firings_cons .idle, hcount]
    exact (congrArg (1 + ·) n.zero_add).trans (Nat.add_comm 1 n)

end Sys2Proof
end

section
/-! PROOF. The configuration check in numbers and as a guard (00_scope R13, R17), and the operations that read no register:
`RESET`, `READ` and `IDLE` (44_operations R131, R133, R135). -/

namespace Sys2Proof

open Machine

/-- A list of natural numbers counted as row 0 of a table is counted, entry by entry. -/
theorem Config.row0_count (c : Config) (e : Nat) :
    c.row0.count e = (List.finRange 16).countP fun d => c.table[d.val] = e := by
  rw [c.row0_eq_map, List.count, List.countP_map]
  rfl

/-- Settles O6: the seven checks one after another. -/
theorem wellFormedConfigurationMeans : Obligations.WellFormedConfigurationMeans := by
  intro c
  rw [c.wellFormed_iff_passes]
  simp only [← c.row0_count, Fin.forall_iff]
  constructor
  · intro h
    exact ⟨of_decide_eq_true (h .kAtLeastOne), of_decide_eq_true (h .cwAtLeastOne), of_decide_eq_true (h .seedNonzero),
      of_decide_eq_true (h .seed16Bits), by simpa [Config.passes] using h .tableEntriesInRange,
      of_decide_eq_true (h .tableRow0Col0), by simpa [Config.passes, and_assoc] using h .tableRow0Distribution⟩
  · rintro ⟨hk, hcw, hzero, hwide, hentries, horigin, hrow⟩ check
    cases check with
    | kAtLeastOne => exact decide_eq_true hk
    | cwAtLeastOne => exact decide_eq_true hcw
    | seedNonzero => exact decide_eq_true hzero
    | seed16Bits => exact decide_eq_true hwide
    | tableEntriesInRange => simpa [Config.passes] using hentries
    | tableRow0Col0 => exact decide_eq_true horigin
    | tableRow0Distribution => simpa [Config.passes, and_assoc] using hrow

/-- A check that is found to fail does fail. -/
theorem Config.passes_of_firstFailure {c : Config} {check : ConfigCheck} (h : c.firstFailure = some check) :
    c.passes check = false := by
  simpa using List.find?_some h

/-- Settles O7, by the three things an operation can do. -/
theorem illFormedConfigurationIsRefused : Obligations.IllFormedConfigurationIsRefused := by
  intro i s
  rcases exec_cases i s with ⟨check, hcheck, hexec⟩ | ⟨hwf, -, hexec⟩ | ⟨hwf, -, hexec⟩
  · exact ⟨fun _ => ⟨check, hexec, Config.passes_of_firstFailure hcheck⟩, fun hwf => absurd (hcheck.symm.trans hwf) nofun⟩
  · exact ⟨fun hill => absurd hwf hill, fun _ r => hexec ▸ nofun⟩
  · exact ⟨fun hill => absurd hwf hill, fun _ r => hexec ▸ nofun⟩

/-- Settles O8, by the edge each operation leaves. -/
theorem operationsKeepConfigurationAndPins : Obligations.OperationsKeepConfigurationAndPins := by
  intro i s t h
  obtain ⟨-, -, rfl⟩ := exec_eq_next_iff.1 h
  exact ⟨edgeOf_cfg i s, edgeOf_req i s, edgeOf_live_iff i s⟩

/-- `RESET` and `IDLE` go on in every well-formed configuration, before the first `RESET` too. -/
theorem exec_of_not_needsReset {i : Instr} {s : State} (hwf : s.cfg.WellFormed) (hi : needsReset i = false) :
    exec i s = .next (edgeOf i s) :=
  exec_eq_next_iff.2 ⟨hwf, fun h => absurd (hi.symm.trans h) nofun, rfl⟩

/-- Settles O9: the edge a `RESET` leaves is the state written out. -/
theorem resetWritesEveryItem : Obligations.ResetWritesEveryItem := fun _ hwf => exec_of_not_needsReset hwf rfl

/-- Settles O43: the edge of `IDLE` is the state with the bus at 0. -/
theorem idleChangesNothing : Obligations.IdleChangesNothing := fun _ hwf => exec_of_not_needsReset hwf rfl

/-- Settles O11: the three operations that need a reset stop, the two others go on. -/
theorem beforeTheFirstReset : Obligations.BeforeTheFirstReset := by
  intro s hwf hlive
  exact ⟨exec_of_not_live hwf rfl hlive, fun _ => exec_of_not_live hwf rfl hlive, fun _ => exec_of_not_live hwf rfl hlive,
    if_neg (ne_true_of_eq_false hlive), idleChangesNothing s hwf, exec_of_not_needsReset hwf rfl⟩

/-- `RESET` leaves nothing of the state but the configuration and the words of later edges (R131). -/
theorem edgeOf_reset (s : State) : edgeOf .reset s = { State.resetOf s.cfg with req := s.req } := rfl

theorem exec_reset_congr {s s' : State} (hcfg : s.cfg = s'.cfg) (hreq : s.req = s'.req) :
    exec .reset s = exec .reset s' := by
  cases hcheck : s.cfg.firstFailure with
  | some check => rw [exec_of_firstFailure hcheck, exec_of_firstFailure (hcfg ▸ hcheck)]
  | none =>
    rw [exec_of_not_needsReset hcheck rfl, exec_of_not_needsReset (hcfg ▸ hcheck) rfl, edgeOf_reset, edgeOf_reset, hcfg,
      hreq]

/-- Settles O10: the two runs are the same from their first edge on. -/
theorem resetForgetsThePast : Obligations.ResetForgetsThePast := by
  intro s s' ops hcfg hreq
  rw [runOps_cons, runOps_cons, exec_reset_congr hcfg hreq]

/-- Settles O47: the edges of the two operations differ from the state in the bus alone. -/
theorem readerWritesNoState : Obligations.ReaderWritesNoState := by
  rintro s t i (h | h)
  · obtain ⟨-, -, rfl⟩ := exec_eq_next_iff.1 h
    exact ⟨cntRead s.block.cnt i, rfl⟩
  · obtain ⟨-, -, rfl⟩ := exec_eq_next_iff.1 h
    exact ⟨0, rfl⟩

/-- Settles O49: the value read is a function of the counters. -/
theorem readerSeesOnlyTheCounters : Obligations.ReaderSeesOnlyTheCounters := by
  intro s b i v hcnt h
  obtain ⟨hwf, hlive, hedge⟩ := exec_eq_next_iff.1 h
  have hbus : cntRead s.block.cnt i = v := by
    injection hedge
  refine exec_eq_next_iff.2 ⟨hwf, hlive, ?_⟩
  rw [← hbus, ← hcnt]
  rfl

end Sys2Proof
end

section
/-! PROOF. The generator as a linear map (40_lfsr R82 to R85): the inverse of a step, the zero register, the bits of a draw,
and the one cycle through the nonzero registers. -/

namespace Sys2Proof

open Machine

/-- The register after a step, as a function of the register. -/
def lfsrNext (x : LfsrWord) : LfsrWord := (lfsrStep x).2

theorem lfsrNext_getLsbD (x : LfsrWord) (j : Nat) :
    (lfsrNext x).getLsbD j = (x.getLsbD (j + 1) ^^ (x[0] && tap.getLsbD j)) := lfsrStep_snd_getLsbD x j

/-- The extracted bit is the new top bit: the mask has its top bit set, and nothing is shifted in. -/
theorem lfsrNext_top (x : LfsrWord) : (lfsrNext x)[15] = x[0] := by
  rw [← BitVec.getLsbD_eq_getElem, lfsrNext_getLsbD]
  simp [tap]

/-- The inverse of a step, bit by bit (R85). -/
theorem getLsbD_succ_eq_lfsrNext (x : LfsrWord) (j : Nat) :
    x.getLsbD (j + 1) = ((lfsrNext x).getLsbD j ^^ (tap.getLsbD j && (lfsrNext x)[15])) := by
  rw [lfsrNext_top, lfsrNext_getLsbD, Bool.and_comm (tap.getLsbD j), Bool.xor_assoc, Bool.xor_self, Bool.xor_false]

/-- Equal registers after a step come from equal registers: all the bits before are read off those after. -/
theorem lfsrNext_injective : Function.Injective lfsrNext := by
  intro x y hxy
  apply BitVec.eq_of_getLsbD_eq
  rintro (_ | j) -
  · rw [BitVec.getLsbD_eq_getElem (by omega), BitVec.getLsbD_eq_getElem (by omega), ← lfsrNext_top, ← lfsrNext_top, hxy]
  · rw [getLsbD_succ_eq_lfsrNext, getLsbD_succ_eq_lfsrNext y, hxy]

/-- Settles O20: injective on finitely many words is bijective. -/
theorem lfsrStepIsBijective : Obligations.LfsrStepIsBijective := by
  refine ⟨Finite.injective_iff_bijective.1 lfsrNext_injective, fun x => ⟨(lfsrNext_top x).symm, fun j _ => ?_⟩⟩
  exact getLsbD_succ_eq_lfsrNext x j

@[simp] theorem lfsrNext_zero : lfsrNext 0 = 0 := by decide

@[simp] theorem lfsrNext_iterate_eq_zero_iff (n : Nat) (x : LfsrWord) : lfsrNext^[n] x = 0 ↔ x = 0 := by
  have hzero : lfsrNext^[n] 0 = 0 := Function.iterate_fixed lfsrNext_zero n
  exact ⟨fun h => lfsrNext_injective.iterate n (h.trans hzero.symm), fun h => h ▸ hzero⟩

/-- Firings, a step of the register and a draw reach the zero register only from zero (R82). -/
theorem fires_lfsr_eq_zero_iff (c : Config) (b : Block c.k c.cw) (n : Nat) :
    (Block.fires c n b).lfsr = 0 ↔ b.lfsr = 0 := by
  rw [fires_lfsr]
  exact lfsrNext_iterate_eq_zero_iff (4 * n) b.lfsr

/-- Settles O17: a step and the steps of the firings are iterates of one injective map that fixes zero. -/
theorem nonzeroRegisterStaysNonzero : Obligations.NonzeroRegisterStaysNonzero :=
  ⟨lfsrNext_iterate_eq_zero_iff 1, fires_lfsr_eq_zero_iff⟩

/-- Settles O18: zero is a fixed point with draw 0, and a zero seed fails its check. -/
theorem zeroRegisterIsAbsorbing : Obligations.ZeroRegisterIsAbsorbing := by
  refine ⟨by decide, fun c b n hzero => ?_, fun i s hseed => ?_, fun x => mt (lfsrNext_iterate_eq_zero_iff 1 x).1⟩
  · have hstill := (fires_lfsr_eq_zero_iff c b n).2 hzero
    exact ⟨hstill, hstill ▸ by decide⟩
  · have hill : ¬ s.cfg.WellFormed := fun hwf => hwf.seed_ne_zero hseed
    obtain ⟨hrefused, -⟩ := illFormedConfigurationIsRefused i s
    obtain ⟨check, hcheck, -⟩ := hrefused hill
    exact ⟨check, hcheck⟩

/-- Below the mask the register only shifts, so the first ten extracted bits are the register's own. -/
theorem lfsrNext_iterate_getLsbD_zero (x : LfsrWord) {n : Nat} (hn : n ≤ 10) :
    (lfsrNext^[n] x).getLsbD 0 = x.getLsbD n := by
  suffices ∀ j, n + j ≤ 10 → (lfsrNext^[n] x).getLsbD j = x.getLsbD (n + j) from this 0 hn
  clear hn
  induction n generalizing x with
  | zero => simp
  | succ n ih =>
    intro j hj
    rw [Function.iterate_succ_apply, ih _ j (by omega), lfsrNext_getLsbD, tap_getLsbD_of_le_nine _ (by omega),
      Bool.and_false, Bool.xor_false, Nat.add_right_comm]

/-- The draw is made of the low four bits (R84). -/
theorem next4_fst (x : LfsrWord) : (next4 x).1 = drawOf x[0] x[1] x[2] x[3] := by
  have hbit : ∀ n, n ≤ 10 → (lfsrStep (lfsrNext^[n] x)).1 = x.getLsbD n := fun n hn => by
    rw [lfsrStep_fst, ← BitVec.getLsbD_eq_getElem, lfsrNext_iterate_getLsbD_zero x hn]
  have hdraw : (next4 x).1 = drawOf (lfsrStep x).1 (lfsrStep (lfsrNext^[1] x)).1 (lfsrStep (lfsrNext^[2] x)).1
      (lfsrStep (lfsrNext^[3] x)).1 := rfl
  rw [hdraw, hbit 1 (by omega), hbit 2 (by omega), hbit 3 (by omega)]
  rfl

/-- The first extracted bit is the most significant one of the draw (R81). -/
theorem drawOf_getElem : ∀ b1 b2 b3 b4 : Bool, (drawOf b1 b2 b3 b4)[3] = b1 ∧ (drawOf b1 b2 b3 b4)[2] = b2 ∧
    (drawOf b1 b2 b3 b4)[1] = b3 ∧ (drawOf b1 b2 b3 b4)[0] = b4 := by decide

theorem rev4_eq_drawOf (n : BitVec 4) : rev4 n = drawOf n[0] n[1] n[2] n[3] := rfl

/-- Settles O19: both sides are made of the same four bits. -/
theorem drawIsReversedLowNibble : Obligations.DrawIsReversedLowNibble := by
  intro x
  rw [next4_fst, rev4_eq_drawOf]
  refine ⟨?_, drawOf_getElem _ _ _ _⟩
  simp

end Sys2Proof
end

section
/-! PROOF. The invariant of the block (10_state R33): it holds at reset, and every firing establishes it from a nonzero
register. -/

namespace Sys2Proof

open Machine

/-- A seed that is checked is not the absorbing word (00_scope R10, R17). -/
theorem Config.WellFormed.atReset_lfsr_ne_zero {c : Config} (h : c.WellFormed) : (Block.atReset c).lfsr ≠ 0 := by
  intro hzero
  have hnum : c.seed % 2 ^ 16 = 0 := congrArg BitVec.toNat hzero
  rw [Nat.mod_eq_of_lt h.seed_lt] at hnum
  exact h.seed_ne_zero hnum

theorem blockInv_atReset {c : Config} (h : c.WellFormed) : BlockInv c (Block.atReset c) where
  lfsr_nonzero := h.atReset_lfsr_ne_zero
  pins_legal := List.mem_cons_self
  struck := nofun
  led_at_origin := nofun
  origin_lit := fun _ => .inr rfl

/-- A firing that arrives at the origin lights the indicator, toggles `TOCK` and strikes the actuator the new `TOCK` selects
(42_output R107). -/
theorem fireWith_outputs_of_state_eq_zero {c : Config} {d : Draw} {b : Block c.k c.cw}
    (h : (b.fireWith c d).state = 0) :
    (b.fireWith c d).led = true ∧ (b.fireWith c d).actA = (!b.tock) ∧ (b.fireWith c d).actB = b.tock ∧
      (b.fireWith c d).tock = !b.tock := by
  have hout := fireWith_outputs c d b
  rw [drive_eq, if_pos h, Driven.mk.injEq] at hout
  obtain ⟨htock, hled, hactA, hactB⟩ := hout
  exact ⟨hled.symm, hactA.symm, hactB.symm, htock.symm⟩

/-- Whatever the outputs and the walk were, a firing leaves them as the invariant says; the register must not be zero. -/
theorem blockInv_fire {c : Config} {b : Block c.k c.cw} (hb : b.lfsr ≠ 0) : BlockInv c (b.fire c) := by
  have hlfsr : (b.fire c).lfsr ≠ 0 := mt (fires_lfsr_eq_zero_iff c b 1).1 hb
  by_cases hstate : (b.fire c).state = 0
  · obtain ⟨hled, hactA, hactB, htock⟩ := fireWith_outputs_of_state_eq_zero hstate
    exact
      { lfsr_nonzero := hlfsr
        pins_legal := by
          rw [fire_eq_fireWith, hled, hactA, hactB]
          cases b.tock <;> decide
        struck := fun _ => ⟨hactA.trans htock.symm, by rw [fire_eq_fireWith, hactB, htock, Bool.not_not]⟩
        led_at_origin := fun _ => hstate
        origin_lit := fun _ => .inl hled }
  · obtain ⟨hled, hactA, hactB, -⟩ := fireWith_outputs_of_state_ne_zero hstate
    have hdark : (b.fire c).led ≠ true := ne_true_of_eq_false hled
    exact
      { lfsr_nonzero := hlfsr
        pins_legal := by
          rw [fire_eq_fireWith, hled, hactA, hactB]
          exact List.mem_cons_self
        struck := fun h => absurd h hdark
        led_at_origin := fun h => absurd h hdark
        origin_lit := fun h => absurd h hstate }

/-- Each operation keeps the invariant: `RESET` and a firing establish it, a read and an idle edge touch no register. -/
theorem exec_keeps_inv {i : Instr} {s t : State} (hinv : Inv s) (h : exec i s = .next t) : Inv t := by
  obtain ⟨hwf, hlive, rfl⟩ := exec_eq_next_iff.1 h
  cases i with
  | reset => exact fun _ => blockInv_atReset hwf
  | fire => exact fun _ => blockInv_fire (hinv (hlive rfl)).lfsr_nonzero
  | read j => exact hinv
  | fireRead j => exact fun _ => blockInv_fire (hinv (hlive rfl)).lfsr_nonzero
  | idle => exact hinv

/-- Settles O13: a step is an operation on the state with its word taken off the list, and the invariant does not speak of
the words. -/
theorem invariantKeptByStep : Obligations.InvariantKeptByStep := by
  intro s t hinv h
  have hdrop : Inv s.dropReq := hinv
  exact exec_keeps_inv hdrop h

/-- Settles O12: `State.reset` is the reset state of the default configuration, which is well-formed. -/
theorem invariantHoldsAtReset : Obligations.InvariantHoldsAtReset := by
  have hreset : ∀ c : Config, c.WellFormed → Inv (State.resetOf c) := fun _ hwf _ => blockInv_atReset hwf
  exact ⟨hreset _ (by decide), hreset⟩

end Sys2Proof
end

section
/-! PROOF. The period of the register (40_lfsr R85). The step is linear, and the word 0x8000 moves through all sixteen unit
words in its first fifteen steps; so any number of steps is multiplication by the word to which they take 0x8000, and the
words after long runs are found by repeated squaring. -/

namespace Sys2Proof

open Machine

theorem lfsrNext_xor (x y : LfsrWord) : lfsrNext (x ^^^ y) = lfsrNext x ^^^ lfsrNext y := by
  apply BitVec.eq_of_getLsbD_eq
  intro j _
  simp only [BitVec.getLsbD_xor, lfsrNext_getLsbD, BitVec.getElem_xor, Bool.and_xor_distrib_right, Bool.xor_assoc,
    Bool.xor_left_comm]

theorem lfsrNext_iterate_xor (n : Nat) (x y : LfsrWord) :
    lfsrNext^[n] (x ^^^ y) = lfsrNext^[n] x ^^^ lfsrNext^[n] y :=
  Function.Semiconj₂.iterate (f := lfsrNext) (op := (· ^^^ ·)) lfsrNext_xor n x y

/-- The unit of the multiplication. -/
def lfsrOne : LfsrWord := 0x8000#16

/-- The sum of the steps of `a` that the low `n` bits of `x` select: bit `n - 1` selects `a` itself, each bit below it one
step more. -/
def lfsrMulLow (a x : LfsrWord) : Nat → LfsrWord
  | 0 => 0
  | n + 1 => lfsrNext (lfsrMulLow a x n) ^^^ if x.getLsbD n then a else 0

/-- The product of two registers: all the bits of `x` select steps of `a`. -/
def lfsrMul (a x : LfsrWord) : LfsrWord := lfsrMulLow a x 16

/-- Steps of a product are steps of its first factor, as they are linear. -/
theorem lfsrNext_iterate_lfsrMulLow (m : Nat) (a x : LfsrWord) (n : Nat) :
    lfsrNext^[m] (lfsrMulLow a x n) = lfsrMulLow (lfsrNext^[m] a) x n := by
  have hzero : lfsrNext^[m] 0 = 0 := Function.iterate_fixed lfsrNext_zero m
  induction n with
  | zero => exact hzero
  | succ n ih =>
    rw [lfsrMulLow, lfsrMulLow, lfsrNext_iterate_xor, ← Function.iterate_succ_apply, Function.iterate_succ_apply', ih,
      apply_ite lfsrNext^[m], hzero]

/-- The unit has its top bit alone. -/
theorem lfsrOne_getLsbD : ∀ j < 16, lfsrOne.getLsbD j = decide (j = 15) := by decide

/-- The low bits of `x` select the unit words that put them together again, at the top of the register. -/
theorem lfsrMulLow_one (x : LfsrWord) {n : Nat} (hn : n ≤ 16) : lfsrMulLow lfsrOne x n = x <<< (16 - n) := by
  induction n with
  | zero => exact (BitVec.shiftLeft_eq_zero (le_refl 16)).symm
  | succ n ih =>
    obtain ⟨m, hm⟩ : ∃ m, n + m = 15 := ⟨15 - n, by omega⟩
    have hshift : 16 - n = m + 1 := by omega
    have hshift' : 16 - (n + 1) = m := by omega
    rw [lfsrMulLow, ih (by omega), hshift, hshift']
    apply BitVec.eq_of_getLsbD_eq
    intro j hj
    have hzero : (x <<< (m + 1))[0] = false := by simp [BitVec.getElem_shiftLeft]
    have hunit : (if x.getLsbD n then lfsrOne else 0).getLsbD j = (x.getLsbD n && decide (j = 15)) := by
      cases x.getLsbD n <;> simp [lfsrOne_getLsbD j hj]
    rw [BitVec.getLsbD_xor, lfsrNext_getLsbD, hzero, Bool.false_and, Bool.xor_false, hunit, BitVec.getLsbD_shiftLeft,
      BitVec.getLsbD_shiftLeft]
    obtain hlow | rfl : j < 15 ∨ j = 15 := by omega
    · simp [hlow.ne, hj, show j + 1 < 16 by omega]
    · have hbit : 15 - m = n := by omega
      simp [hbit, show m ≤ 15 by omega]

/-- Any number of steps is one multiplication. -/
theorem lfsrNext_iterate_eq_lfsrMul (n : Nat) (x : LfsrWord) :
    lfsrNext^[n] x = lfsrMul (lfsrNext^[n] lfsrOne) x := by
  have hone : lfsrMul lfsrOne x = x := by
    rw [lfsrMul, lfsrMulLow_one x (le_refl 16), Nat.sub_self, BitVec.shiftLeft_zero]
  rw [lfsrMul, ← lfsrNext_iterate_lfsrMulLow, ← lfsrMul, hone]

/-- The word that `n` steps make of the unit, by repeated squaring; `bits` is how many bits of `n` are read. -/
def lfsrPow : Nat → Nat → LfsrWord
  | 0, _ => lfsrOne
  | bits + 1, n =>
    let a := lfsrPow bits (n / 2)
    lfsrNext^[n % 2] (lfsrMul a a)

theorem lfsrPow_eq_iterate {bits n : Nat} (h : n < 2 ^ bits) : lfsrPow bits n = lfsrNext^[n] lfsrOne := by
  induction bits generalizing n with
  | zero =>
    obtain rfl : n = 0 := by omega
    rfl
  | succ bits ih =>
    have hsplit : n = n % 2 + n / 2 + n / 2 := by omega
    rw [lfsrPow, ih (by omega), ← lfsrNext_iterate_eq_lfsrMul, ← Function.iterate_add_apply,
      ← Function.iterate_add_apply, ← hsplit]

/-- Where a number of steps that fits in 16 bits leads. -/
theorem lfsrNext_iterate_eq_lfsrPow {n : Nat} (h : n < 2 ^ 16) (x : LfsrWord) :
    lfsrNext^[n] x = lfsrMul (lfsrPow 16 n) x := by
  rw [lfsrPow_eq_iterate h, ← lfsrNext_iterate_eq_lfsrMul]

/-- The seed returns after 65535 steps, and not after 65535 divided by one of its prime factors. -/
theorem lfsrMul_lfsrPow_seed : lfsrMul (lfsrPow 16 65535) 0xACE1#16 = 0xACE1#16 ∧
    ∀ p ∈ [3, 5, 17, 257], lfsrMul (lfsrPow 16 (65535 / p)) 0xACE1#16 ≠ 0xACE1#16 := by
  decide +kernel

theorem mem_of_prime_of_dvd_65535 {p : Nat} (hp : p.Prime) (hdvd : p ∣ 65535) : p ∈ [3, 5, 17, 257] := by
  have hmem : p ∈ Nat.primeFactorsList 65535 := (Nat.mem_primeFactorsList (by omega)).2 ⟨hp, hdvd⟩
  simpa using hmem

/-- A period that is kept by no division by a prime is the least one. -/
theorem minimalPeriod_eq_of_not_div_prime {α : Type} {f : α → α} {x : α} {n : Nat}
    (h : Function.IsPeriodicPt f n x)
    (hdiv : ∀ p, p.Prime → p ∣ n → ¬ Function.IsPeriodicPt f (n / p) x) : Function.minimalPeriod f x = n := by
  obtain ⟨a, ha⟩ := h.minimalPeriod_dvd
  by_contra hne
  have hfac : a ≠ 1 := fun h1 => hne (by rw [ha, h1, Nat.mul_one])
  refine hdiv a.minFac (Nat.minFac_prime hfac) (ha ▸ Dvd.dvd.mul_left a.minFac_dvd _) ?_
  rw [ha, Nat.mul_div_assoc _ a.minFac_dvd]
  exact (Function.isPeriodicPt_minimalPeriod f x).mul_const _

theorem minimalPeriod_lfsrNext_seed : Function.minimalPeriod lfsrNext 0xACE1#16 = 65535 := by
  obtain ⟨hreturn, hnot⟩ := lfsrMul_lfsrPow_seed
  refine minimalPeriod_eq_of_not_div_prime ((lfsrNext_iterate_eq_lfsrPow (by omega) _).trans hreturn) ?_
  intro p hp hdvd hper
  have hlt : 65535 / p < 2 ^ 16 := (Nat.div_le_self _ _).trans_lt (by omega)
  exact hnot p (mem_of_prime_of_dvd_65535 hp hdvd) ((lfsrNext_iterate_eq_lfsrPow hlt _).symm.trans hper)

/-- The cycle of the seed has as many words as there are nonzero ones. -/
theorem exists_lfsrNext_iterate_seed {x : LfsrWord} (hx : x ≠ 0) : ∃ n, n < 65535 ∧ lfsrNext^[n] 0xACE1#16 = x := by
  have hcard : (Finset.univ.erase (0 : LfsrWord)).card = 65535 := by
    rw [Finset.card_erase_of_mem (Finset.mem_univ _), Finset.card_univ, Fintype.card_congr BitVec.equivFin.toEquiv,
      Fintype.card_fin]
    rfl
  have hmaps : Set.MapsTo (lfsrNext^[·] 0xACE1#16) (Finset.range 65535) (Finset.univ.erase (0 : LfsrWord)) := by
    intro n _
    exact Finset.mem_erase.2 ⟨mt (lfsrNext_iterate_eq_zero_iff n _).1 (by decide), Finset.mem_univ _⟩
  have hinj : Set.InjOn (lfsrNext^[·] 0xACE1#16) (Finset.range 65535) := by
    have := Function.iterate_injOn_Iio_minimalPeriod (f := lfsrNext) (x := 0xACE1#16)
    rwa [minimalPeriod_lfsrNext_seed, ← Finset.coe_range] at this
  have hsurj := Finset.surjOn_of_injOn_of_card_le _ hmaps hinj (by rw [hcard, Finset.card_range])
  obtain ⟨n, hn, hnx⟩ := hsurj (show x ∈ _ by simpa using hx)
  exact ⟨n, Finset.mem_range.1 hn, hnx⟩

/-- Settles O21: the least period of the seed by powers, the words on its cycle by counting. -/
theorem lfsrPeriodIsMaximal : Obligations.LfsrPeriodIsMaximal := by
  have hperiod := minimalPeriod_lfsrNext_seed
  refine ⟨?_, fun n hpos hlt => ?_, fun x hx => exists_lfsrNext_iterate_seed hx⟩
  · exact hperiod ▸ Function.isPeriodicPt_minimalPeriod lfsrNext 0xACE1#16
  · exact Function.not_isPeriodicPt_of_pos_of_lt_minimalPeriod hpos.ne' (hperiod ▸ hlt)

end Sys2Proof
end

section
/-! PROOF. The walk (41_transition R92 to R102): the row, the lookup, and what any number of firings does to the packed state
and to the sum of the counters. -/

namespace Sys2Proof

open Machine

/-- Settles O23: the macro-state plus one, which the wrap carries to. -/
theorem rowIsTheMacroStateLeft : Obligations.RowIsTheMacroStateLeft := by
  intro k st hwrap
  have hrow := rowOf_nextPacked_of_wrap hwrap
  have hquot : (nextPacked k st).toNat / 2 ^ k = (macroIndex k st).toNat + 1 := by
    rw [nextPacked_toNat, succ_div_of_wrap hwrap, macroIndex_toNat]
  have hlt := (macroIndex k st).isLt
  rw [hquot, hrow]
  exact ⟨by omega, by omega, rfl, rfl⟩

/-- The row above the column is a multiple of sixteen and a rest (20_memory R42). -/
theorem tableAddr_toNat : ∀ (row : MacroState) (d : Draw), (tableAddr row d).toNat = 16 * row.toNat + d.toNat := by decide

/-- Settles O25: the entry at the address is below 4, so two bits hold it. -/
theorem stutterLookupReadsTheTable : Obligations.StutterLookupReadsTheTable := by
  intro c row draw hwf hmode
  have haddr : (tableAddr row draw).toNat < c.table.toList.length := by simpa using (tableAddr row draw).isLt
  rw [← tableAddr_toNat, lookup_toNat_of_stutter hwf hmode, List.getElem?_eq_getElem haddr, Vector.getElem_toList]

/-- Settles O26: the one added is one modulo `2^CW`. -/
theorem countIncWraps : Obligations.CountIncWraps := by
  intro cw cnt n j
  rw [cntRead_countInc]
  by_cases h : j = n
  · simp [h]
  · simp [h]

/-- Settles O27: without a wrap no table is read, and the steady table has no columns. -/
theorem drawMattersOnlyInStutterTransitions : Obligations.DrawMattersOnlyInStutterTransitions := by
  intro c st d d' h
  by_cases hwrap : (st.toNat + 1) % 2 ^ c.k = 0
  · have hmode : c.mode = .steady := h.resolve_right (not_not_intro hwrap)
    have hlookup : lookup c (macroIndex c.k st) d = lookup c (macroIndex c.k st) d' := by
      simp only [lookup, romRead, hmode, steadyEntry]
    rw [advance_of_wrap hwrap, advance_of_wrap hwrap, hlookup]
  · rw [advance_of_not_wrap hwrap, advance_of_not_wrap hwrap]

section Advance

variable (c : Config) (st : BitVec (c.k + 2)) (d : Draw)

theorem advance_transitioned : (advance c st d).transitioned = decide ((st.toNat + 1) % 2 ^ c.k = 0) := by
  by_cases hwrap : (st.toNat + 1) % 2 ^ c.k = 0
  · rw [advance_of_wrap hwrap, decide_eq_true hwrap]
  · rw [advance_of_not_wrap hwrap, decide_eq_false hwrap]

/-- `ADVANCE` lands somewhere exactly in a transition (R100). -/
theorem advance_landed_isSome : (advance c st d).landed.isSome = (advance c st d).transitioned := by
  by_cases hwrap : (st.toNat + 1) % 2 ^ c.k = 0
  · rw [advance_of_wrap hwrap, Option.isSome_some]
  · rw [advance_of_not_wrap hwrap, Option.isSome_none]

/-- Whatever it lands on, `ADVANCE` advances the sub-step by one modulo `2^K`. -/
theorem advance_state_mod : (advance c st d).state.toNat % 2 ^ c.k = (st.toNat + 1) % 2 ^ c.k := by
  by_cases hwrap : (st.toNat + 1) % 2 ^ c.k = 0
  · rw [advance_of_wrap hwrap, landOn_toNat, Nat.mul_mod_left, hwrap]
  · rw [advance_of_not_wrap hwrap, state_succ_toNat_of_not_wrap hwrap]

end Advance

section Fire

variable (c : Config) (d : Draw) (b : Block c.k c.cw) (n : Nat)

/-- A transition adds one to the sum of the counters modulo `2^CW`, whichever it lands on (10_state R33 (f)). -/
theorem fireWith_total_mod : (b.fireWith c d).total ≡
    b.total + (if (Machine.advance c b.state d).transitioned then 1 else 0) [MOD 2 ^ c.cw] := by
  rw [← advance_landed_isSome, Block.total, fireWith_cnt]
  generalize (Machine.advance c b.state d).landed = landed
  have hone : (if landed.isSome then 1 else 0) = (if landed = some 0 then 1 else 0) + (if landed = some 1 then 1 else 0) +
      (if landed = some 2 then 1 else 0) + (if landed = some 3 then 1 else 0) := by
    revert landed
    decide
  have hcnt (j : CntIdx) : (cntRead (countLanded b.cnt landed) j).toNat ≡
      (cntRead b.cnt j).toNat + (if landed = some j then 1 else 0) [MOD 2 ^ c.cw] := by
    rw [cntRead_countLanded_toNat]
    exact Nat.mod_modEq _ _
  rw [Block.total, hone]
  refine ((((hcnt 0).add (hcnt 1)).add (hcnt 2)).add (hcnt 3)).trans (congrArg (· % 2 ^ c.cw) ?_)
  ac_rfl

theorem fires_succ' : Block.fires c (n + 1) b = (Block.fires c n b).fire c := fires_add c b n 1

theorem fires_state_mod : (Block.fires c n b).state.toNat % 2 ^ c.k = (b.state.toNat + n) % 2 ^ c.k := by
  induction n generalizing b with
  | zero => rfl
  | succ n ih =>
    have hfire : (b.fire c).state.toNat ≡ b.state.toNat + 1 [MOD 2 ^ c.k] := advance_state_mod c b.state _
    rw [fires_succ, ih, Nat.add_comm n 1, ← Nat.add_assoc]
    exact hfire.add_right n

theorem fires_total_mod :
    (Block.fires c n b).total % 2 ^ c.cw = (b.total + transitionsIn c n b) % 2 ^ c.cw := by
  induction n generalizing b with
  | zero => rfl
  | succ n ih =>
    rw [fires_succ, ih, transitionsIn, ← Nat.add_assoc]
    exact (fireWith_total_mod c _ b).add_right _

/-- The multiples of `p` up to `s + n + 1` from `s` on, the first step apart from the others. -/
theorem mod_add_succ_div (p s n : Nat) (hp : 0 < p) :
    (s % p + (n + 1)) / p = (if (s + 1) % p = 0 then 1 else 0) + ((s + 1) % p + n) / p := by
  have hlt := Nat.mod_lt s hp
  rw [← Nat.mod_add_mod s p 1]
  by_cases hlast : s % p + 1 = p
  · rw [hlast, Nat.mod_self, if_pos rfl, Nat.zero_add, Nat.add_comm 1, ← Nat.add_div_left n hp]
    congr 1
    omega
  · rw [Nat.mod_eq_of_lt (a := s % p + 1) (by omega), if_neg (by omega), Nat.zero_add, Nat.add_assoc, Nat.add_comm 1 n]

theorem transitionsIn_eq : transitionsIn c n b = (b.state.toNat % 2 ^ c.k + n) / 2 ^ c.k := by
  induction n generalizing b with
  | zero =>
    rw [Nat.add_zero, Nat.div_eq_of_lt (Nat.mod_lt _ (Nat.two_pow_pos c.k))]
    rfl
  | succ n ih =>
    have hmod : (b.fire c).state.toNat % 2 ^ c.k = (b.state.toNat + 1) % 2 ^ c.k := advance_state_mod c b.state _
    rw [transitionsIn, advance_transitioned, ih, hmod, mod_add_succ_div _ _ _ (Nat.two_pow_pos c.k)]
    simp

end Fire

/-- Settles O29, each count by its own induction on the firings. -/
theorem transitionsHappenAtFixedFirings : Obligations.TransitionsHappenAtFixedFirings := fun c b n =>
  ⟨fires_state_mod c b n, transitionsIn_eq c b n, fires_total_mod c b n⟩

/-- In steady mode a landing is where counting on leads, as the row is one behind (R102). -/
theorem advance_state_of_steady {c : Config} (hmode : c.mode = .steady) (st : BitVec (c.k + 2)) (d : Draw) :
    (advance c st d).state.toNat = (st.toNat + 1) % (4 * 2 ^ c.k) := by
  have hstate : st.toNat + 1 ≤ 4 * 2 ^ c.k := Nat.succ_le_of_lt (by simpa [Nat.pow_add, Nat.mul_comm] using st.isLt)
  by_cases hwrap : (st.toNat + 1) % 2 ^ c.k = 0
  · have hlookup : lookup c (macroIndex c.k st) d = macroIndex c.k st + 1 := by
      simp only [lookup, romRead, hmode, steadyEntry]
    have hland : (macroIndex c.k st + 1).toNat = (st.toNat + 1) / 2 ^ c.k % 4 := by
      rw [BitVec.toNat_add, macroIndex_toNat, succ_div_of_wrap hwrap]
      rfl
    rw [advance_of_wrap hwrap, landOn_toNat, hlookup, hland, ← Nat.mul_mod_mul_right,
      Nat.div_mul_cancel (Nat.dvd_of_mod_eq_zero hwrap)]
  · have hlast : st.toNat + 1 ≠ 4 * 2 ^ c.k := fun h => hwrap (by rw [h, Nat.mul_mod_left])
    rw [advance_of_not_wrap hwrap, state_succ_toNat_of_not_wrap hwrap, Nat.mod_eq_of_lt (by omega)]

/-- Settles O30, by induction on the firings. -/
theorem steadyWalkCountsFirings : Obligations.SteadyWalkCountsFirings := by
  intro c b n hmode
  induction n with
  | zero =>
    have hlt : b.state.toNat < 4 * 2 ^ c.k := by simpa [Nat.pow_add, Nat.mul_comm] using b.state.isLt
    exact (Nat.mod_eq_of_lt hlt).symm
  | succ n ih =>
    rw [fires_succ', fire_eq_fireWith, fireWith_state, advance_state_of_steady hmode, ih, Nat.mod_add_mod]
    rfl

/-- From the origin, fewer than `2^K` firings count the sub-step and touch no counter (R97). -/
theorem fires_atReset {c : Config} {n : Nat} (hn : n < 2 ^ c.k) :
    (Block.fires c n (Block.atReset c)).state.toNat = n ∧
      (Block.fires c n (Block.atReset c)).cnt = (Block.atReset c).cnt ∧
      (Block.fires c n (Block.atReset c)).led = false := by
  induction n with
  | zero => exact ⟨rfl, rfl, rfl⟩
  | succ n ih =>
    obtain ⟨hstate, hcnt, -⟩ := ih (by omega)
    have hstay : ((Block.fires c n (Block.atReset c)).state.toNat + 1) % 2 ^ c.k ≠ 0 := by
      rw [hstate, Nat.mod_eq_of_lt hn]
      omega
    have hnext : (Block.fires c (n + 1) (Block.atReset c)).state.toNat = n + 1 := by
      rw [fires_succ', fire_eq_fireWith, fireWith_state, advance_of_not_wrap hstay, state_succ_toNat_of_not_wrap hstay,
        hstate]
    have hne : (Block.fires c (n + 1) (Block.atReset c)).state ≠ 0 := fun h => by simp [h] at hnext
    refine ⟨hnext, ?_, ?_⟩
    · rw [fires_succ', fire_eq_fireWith, fireWith_cnt, advance_of_not_wrap hstay, countLanded_none, hcnt]
    · rw [fires_succ', fire_eq_fireWith] at hne ⊢
      obtain ⟨hled, -⟩ := fireWith_outputs_of_state_ne_zero hne
      exact hled

/-- Settles O14: the walk up to the first wrap, and the row of macro-state 0 there. -/
theorem firstFiringsAfterReset : Obligations.FirstFiringsAfterReset := by
  intro c n _ hn
  obtain ⟨hstate, hcnt, hled⟩ := fires_atReset hn
  refine ⟨hstate, ?_, hled, fun hlast => ?_⟩
  · simp [Block.total, hcnt, atReset_cntRead]
  · have hwrap : ((Block.fires c n (Block.atReset c)).state.toNat + 1) % 2 ^ c.k = 0 := by
      rw [hstate, hlast, Nat.mod_self]
    rw [fires_succ', fire_eq_fireWith, fireWith_state, advance_of_wrap hwrap, landOn_toNat,
      macroIndex_eq_zero_iff.2 (hstate.trans_lt hn)]

end Sys2Proof
end

section
/-! PROOF. A firing item by item, with and without a transition, and the tick events along firings (41_transition R91, R92,
42_output R105 to R113, 44_operations R132). -/

namespace Sys2Proof

open Machine

/-- The outputs as functions of the tick bit and of the old `TOCK` (R105, R107). -/
theorem drive_eq_of_tick (k : Nat) (st : BitVec (k + 2)) (tock : Bool) :
    drive k st tock =
      { tock := tock ^^ decide (st = 0), led := decide (st = 0), actA := decide (st = 0) && !tock,
        actB := decide (st = 0) && tock } := by
  rw [drive_eq]
  split <;> simp_all

/-- A landing stores macro-state `m` as `m` times `2^K`. -/
theorem landOn_eq_ofNat (k : Nat) (m : MacroState) : landOn k m = BitVec.ofNat (k + 2) (m.toNat * 2 ^ k) := by
  rw [← landOn_toNat, BitVec.ofNat_toNat, BitVec.setWidth_eq]

/-- A landing is at the origin exactly where it is on macro-state 0. -/
theorem landOn_eq_zero_iff (k : Nat) (m : MacroState) : landOn k m = 0 ↔ m = 0 := by
  rw [state_eq_zero_iff, macroIndex_landOn, substep_landOn]
  exact and_iff_left rfl

/-- Counting the sub-step never leads to the origin. -/
theorem state_succ_ne_zero_of_not_wrap {k : Nat} {st : BitVec (k + 2)} (h : (st.toNat + 1) % 2 ^ k ≠ 0) : st + 1 ≠ 0 := by
  intro hzero
  have hnum := state_succ_toNat_of_not_wrap h
  rw [hzero] at hnum
  exact absurd hnum nofun

/-- Arrivals at the origin are the landings on macro-state 0 (R106). -/
theorem advance_state_eq_zero_iff (c : Config) (st : BitVec (c.k + 2)) (d : Draw) :
    (advance c st d).state = 0 ↔ (advance c st d).landed = some 0 := by
  by_cases hwrap : (st.toNat + 1) % 2 ^ c.k = 0
  · rw [advance_of_wrap hwrap, landOn_eq_zero_iff, Option.some_inj]
  · rw [advance_of_not_wrap hwrap]
    exact iff_of_false (state_succ_ne_zero_of_not_wrap hwrap) nofun

theorem cntRead_countLanded {cw : Nat} (cnt : Vector (BitVec cw) 4) (landed : Option MacroState) (j : CntIdx) :
    cntRead (countLanded cnt landed) j = if landed = some j then cntRead cnt j + 1 else cntRead cnt j := by
  cases landed with
  | none => rfl
  | some n => simp only [countLanded_some, cntRead_countInc, Option.some_inj, eq_comm (a := j)]

section Fire

variable (c : Config) (d : Draw) (b : Block c.k c.cw)

/-- A firing, item by item (R132). -/
theorem fireWith_eq : b.fireWith c d =
    { lfsr := (next4 b.lfsr).2, state := (Machine.advance c b.state d).state,
      tock := b.tock ^^ decide ((Machine.advance c b.state d).state = 0),
      cnt := countLanded b.cnt (Machine.advance c b.state d).landed,
      led := decide ((Machine.advance c b.state d).state = 0),
      actA := decide ((Machine.advance c b.state d).state = 0) && !b.tock,
      actB := decide ((Machine.advance c b.state d).state = 0) && b.tock } := by
  rw [Block.fireWith, Block.drive, drive_eq_of_tick]
  simp only [Block.withDriven, Block.advance_state, Block.advance_cnt, Block.withLfsr_state, Block.withLfsr_cnt]
  rfl

variable {d b}

theorem fireWith_of_not_wrap (h : (b.state.toNat + 1) % 2 ^ c.k ≠ 0) : b.fireWith c d =
    { lfsr := (next4 b.lfsr).2, state := b.state + 1, tock := b.tock, cnt := b.cnt, led := false, actA := false,
      actB := false } := by
  have htick : decide (b.state + 1 = 0) = false := decide_eq_false (state_succ_ne_zero_of_not_wrap h)
  simp only [fireWith_eq, advance_of_not_wrap h, htick, Bool.xor_false, Bool.false_and, countLanded_none]

theorem fireWith_of_wrap (h : (b.state.toNat + 1) % 2 ^ c.k = 0) {next : MacroState}
    (hnext : lookup c (macroIndex c.k b.state) d = next) : b.fireWith c d =
    { lfsr := (next4 b.lfsr).2, state := landOn c.k next, tock := b.tock ^^ decide (next = 0),
      cnt := countInc b.cnt next, led := decide (next = 0), actA := decide (next = 0) && !b.tock,
      actB := decide (next = 0) && b.tock } := by
  simp only [fireWith_eq, advance_of_wrap h, hnext, landOn_eq_zero_iff, countLanded_some]

end Fire

/-- A ready machine's `FIRE` where the firing is known. -/
theorem Ready.exec_fire_of_fire_eq {s : State} (h : Ready s) {b : Block s.cfg.k s.cfg.cw} (hb : s.block.fire s.cfg = b) :
    exec .fire s = .next { s with block := b, rdData := 0 } :=
  hb ▸ h.exec_fire

/-- Settles O39: the edge of `FIRE` with the firing written out. -/
theorem fireWithoutTransition : Obligations.FireWithoutTransition := fun s hready hstay =>
  hready.exec_fire_of_fire_eq (fireWith_of_not_wrap s.cfg hstay)

/-- Settles O40: the edge of `FIRE` with the firing written out. -/
theorem fireWithTransition : Obligations.FireWithTransition := by
  intro s next hready hwrap hnext
  rw [← landOn_eq_ofNat]
  exact hready.exec_fire_of_fire_eq (fireWith_of_wrap s.cfg hwrap hnext.symm)

/-- Settles O33, by the outputs of a firing that arrives at the origin. -/
theorem tickFiringStrikesOneActuator : Obligations.TickFiringStrikesOneActuator := by
  intro s hready hstate
  obtain ⟨hled, hactA, hactB, htock⟩ := fireWith_outputs_of_state_eq_zero hstate
  refine ⟨s.block.fire s.cfg, hready.exec_fire, hled, htock, hactA.trans htock.symm, ?_⟩
  rw [fire_eq_fireWith, hactB, htock, Bool.not_not]

/-- Settles O34: the indicator by the arrival, the arrival by the landing, the landing by the counter. -/
theorem tickEventsAreLandingsOnZero : Obligations.TickEventsAreLandingsOnZero := by
  intro c b
  have harrive : (b.fire c).led = true ↔ (b.fire c).state = 0 := fireWith_led_iff ..
  have hland : (b.fire c).led = true ↔ (advance c b.state (next4 b.lfsr).1).landed = some 0 :=
    harrive.trans (advance_state_eq_zero_iff ..)
  refine ⟨harrive, hland, ?_⟩
  simp only [hland]
  exact cntRead_countLanded ..

theorem Machine.State.lines_of_live {s : State} (h : s.live = true) :
    s.lines = some (s.block.led, s.block.actA, s.block.actB) := if_pos h

/-- A firing at the origin leaves it, so it lowers the three lines (R109). -/
theorem Ready.fire_lowers_lines {s : State} (h : Ready s) (hstate : s.block.state = 0) :
    ∃ t, exec .fire s = .next t ∧ t.lines = some (false, false, false) := by
  have hgo := h.exec_fire
  obtain ⟨hwf, hlive⟩ := h
  have hne : (s.block.fire s.cfg).state ≠ 0 := hstate ▸ advance_state_ne hwf.k_pos s.block.state _
  have hlive' : (edgeOf .fire s).live = true := hlive
  obtain ⟨hled, hactA, hactB, -⟩ := fireWith_outputs_of_state_ne_zero hne
  refine ⟨edgeOf .fire s, hgo, ?_⟩
  rw [State.lines_of_live hlive']
  change some ((s.block.fire s.cfg).led, (s.block.fire s.cfg).actA, (s.block.fire s.cfg).actB) = _
  rw [fire_eq_fireWith, hled, hactA, hactB]

/-- Settles O35: a run without firings leaves the block at the origin, with its lines. -/
theorem pulseLastsOneFiring : Obligations.PulseLastsOneFiring := by
  intro s t u between hready hfire hled hnone hreset hrun
  obtain ⟨hwf, hlive⟩ := hready
  obtain ⟨-, -, rfl⟩ := exec_eq_next_iff.1 hfire
  have hstate : (s.block.fire s.cfg).state = 0 := (fireWith_led_iff ..).1 hled
  obtain ⟨v, hu⟩ := runOps_eq_fires hreset hrun
  rw [hnone, Block.fires] at hu
  subst hu
  have hready' : Ready ((edgeOf .fire s).afterEdge (edgeOf .fire s).block v) := ⟨hwf, hlive⟩
  exact ⟨rfl, hready'.fire_lowers_lines hstate⟩

section Ticks

variable (c : Config) (b : Block c.k c.cw)

/-- A firing toggles `TOCK` where it lights the indicator (R107). -/
theorem fire_tock : (b.fire c).tock = (b.tock ^^ (b.fire c).led) := by
  rw [fire_eq_fireWith, fireWith_eq]

/-- Along `n` firings `TOCK` is toggled at every tick event (R110). -/
theorem fires_tock (n : Nat) : (Block.fires c n b).tock = (b.tock ^^ decide (ticksIn c n b % 2 = 1)) := by
  induction n generalizing b with
  | zero => exact (Bool.xor_false _).symm
  | succ n ih =>
    have hodd : (1 + ticksIn c n (b.fire c)) % 2 = 1 ↔ ¬ ticksIn c n (b.fire c) % 2 = 1 := by omega
    rw [fires_succ, ih, fire_tock, ticksIn, Bool.xor_assoc]
    cases (b.fire c).led with
    | false => simp
    | true => rw [if_pos rfl, decide_eq_decide.2 hodd, Bool.true_xor, decide_not]

variable {c b}

/-- A tick event strikes the actuator that the old `TOCK` did not select (R107). -/
theorem fire_actuators_of_led (h : (b.fire c).led = true) :
    (b.fire c).actA = (!b.tock) ∧ (b.fire c).actB = b.tock ∧ (b.fire c).tock = !b.tock := by
  obtain ⟨-, hactA, hactB, htock⟩ := fireWith_outputs_of_state_eq_zero ((fireWith_led_iff ..).1 h)
  exact ⟨hactA, hactB, htock⟩

end Ticks

/-- Settles O36: without a tick event between them the second finds `TOCK` as the first left it. -/
theorem tockAlternates : Obligations.TockAlternates := by
  refine ⟨fires_tock, fun c b m hfirst hnone hsecond => ?_⟩
  obtain ⟨hA, hB, htock⟩ := fire_actuators_of_led hfirst
  obtain ⟨hA', hB', -⟩ := fire_actuators_of_led hsecond
  have hkept : (Block.fires c m (b.fire c)).tock = !b.tock := by
    rw [fires_tock, hnone, htock]
    exact Bool.xor_false _
  rw [hA, hB, hA', hB', hkept, Bool.not_not]
  exact ⟨rfl, rfl, Bool.not_ne_self _⟩

/-- Settles O37: the sub-step counts the firings modulo `2^K`, and with draws 0 it is all of the state. -/
theorem tickIntervalIsAMultiple : Obligations.TickIntervalIsAMultiple := by
  refine ⟨fun c b n hb hn => ?_, fun c b hwf hmode hb => ⟨?_, ?_, fun n hpos hlt => ?_⟩⟩
  · have hmod := fires_state_mod c b n
    rw [hb, hn] at hmod
    apply Nat.dvd_of_mod_eq_zero
    simpa using hmod.symm
  · apply BitVec.eq_of_toNat_eq
    rw [firesWith_zero_state hwf hmode hb, Nat.mod_self]
    rfl
  · exact (firesWith_zero_led_iff hwf hmode hb (Nat.two_pow_pos c.k)).2 (Nat.mod_self _)
  · rw [← Bool.not_eq_true, firesWith_zero_led_iff hwf hmode hb hpos, Nat.mod_eq_of_lt hlt]
    exact hpos.ne'

end Sys2Proof
end

section
/-! PROOF. The read bus at each edge and runs of operations (44_operations R132 to R136, 20_memory R49 to R52). -/

namespace Sys2Proof

open Machine

/-- The counter an operation reads, if it reads one (30_encoding R61, R63). -/
def Instr.readIdx : Instr → Option CntIdx
  | .reset => none
  | .fire => none
  | .read i => some i
  | .fireRead i => some i
  | .idle => none

/-- The edge of every operation leaves the bus at the counter it reads, or at 0 (R133). -/
theorem edgeOf_rdData_toNat (i : Instr) (s : State) :
    (edgeOf i s).rdData.toNat = (rdDataBus s.block.cnt i.readIdx).toNat := by
  cases i <;> rfl

/-- The pins `RST` and `RD_EN` say whether there is a read, and `RD_IDX` of which counter, over all 32 words. -/
theorem readIdx_decodeReq : ∀ w : Req,
    (decodeReq w).readIdx = if w[4] = false ∧ w[2] = true then some (w.extractLsb' 0 2) else none := by decide

/-- Settles O44: the bus of the edge, by the counter the word reads. -/
theorem busCarriesTheCounterReadOrZero : Obligations.BusCarriesTheCounterReadOrZero := by
  intro s t w h
  obtain ⟨-, -, rfl⟩ := exec_eq_next_iff.1 h
  rw [edgeOf_rdData_toNat, readIdx_decodeReq]
  split
  · rfl
  · exact BitVec.toNat_zero ..

/-- Settles O42: both ways reach the block after the firing, and the firing adds one where it lands. -/
theorem fireReadIsReadThenFire : Obligations.FireReadIsReadThenFire := by
  intro s i hready
  have hready' : Ready (edgeOf (.read i) s) := hready
  refine ⟨s.block.fire s.cfg, ?_, hready.exec_fire, hready.exec_eq_edgeOf _, ?_⟩
  · exact runOps_cons_eq_next_iff.2 ⟨_, hready.exec_eq_edgeOf _, runOps_cons_eq_next_iff.2 ⟨_, hready'.exec_fire, rfl⟩⟩
  · exact cntRead_countLanded ..

/-- A ready machine is ready after every operation. -/
theorem Ready.edge {s : State} (h : Ready s) (i : Instr) : Ready (edgeOf i s) := by
  obtain ⟨hwf, hlive⟩ := h
  exact ⟨(edgeOf_cfg i s).symm ▸ hwf, (edgeOf_live_iff i s).2 (.inl hlive)⟩

/-- Settles O45, by induction on the list: the edge of every operation is ready again. -/
theorem everyRequestCompletes : Obligations.EveryRequestCompletes := by
  intro ops
  induction ops with
  | nil => exact fun s hready => ⟨s, rfl, hready, rfl, rfl⟩
  | cons i ops ih =>
    intro s hready
    obtain ⟨t, hrun, hready', hcfg, hreq⟩ := ih _ (hready.edge i)
    exact ⟨t, runOps_cons_eq_next_iff.2 ⟨_, hready.exec_eq_edgeOf i, hrun⟩, hready', hcfg.trans (edgeOf_cfg i s),
      hreq.trans (edgeOf_req i s)⟩

/-- Settles O46: every operation of the run is a firing of a ready machine, and the last one leaves the bus at 0. -/
theorem heldStrobeIsManyFirings : Obligations.HeldStrobeIsManyFirings := by
  intro s m hready
  induction m generalizing s with
  | zero => exact runOps_cons_eq_next_iff.2 ⟨_, hready.exec_fire, rfl⟩
  | succ m ih =>
    have hready' : Ready (edgeOf .fire s) := hready.edge .fire
    exact runOps_cons_eq_next_iff.2 ⟨_, hready.exec_fire, ih _ hready'⟩

/-- No operation reads the bus, and what is left of it without the reader reaches the same edge but for the bus. -/
theorem runOps_withoutReader {i : Instr} {s t : State} (h : exec i s = .next t) (v : BitVec s.cfg.cw) :
    ∃ w, runOps i.withoutReader.toList { s with rdData := v } = .next { t with rdData := w } := by
  obtain ⟨hwf, hlive, rfl⟩ := exec_eq_next_iff.1 h
  cases i with
  | reset => exact ⟨0, runOps_cons_eq_next_iff.2 ⟨_, exec_eq_next_iff.2 ⟨hwf, hlive, rfl⟩, rfl⟩⟩
  | fire => exact ⟨0, runOps_cons_eq_next_iff.2 ⟨_, exec_eq_next_iff.2 ⟨hwf, hlive, rfl⟩, rfl⟩⟩
  | read j => exact ⟨v, rfl⟩
  | fireRead j => exact ⟨0, runOps_cons_eq_next_iff.2 ⟨_, exec_eq_next_iff.2 ⟨hwf, hlive, rfl⟩, rfl⟩⟩
  | idle => exact ⟨v, rfl⟩

/-- Settles O48, by induction on the list, whatever the bus is at the start. -/
theorem removingTheReaderChangesNothing : Obligations.RemovingTheReaderChangesNothing := by
  suffices ∀ (ops : List Instr) (s t : State) (v : BitVec s.cfg.cw), runOps ops s = .next t →
      ∃ w, runOps (ops.filterMap Instr.withoutReader) { s with rdData := v } = .next { t with rdData := w } from
    fun ops s t h => this ops s t s.rdData h
  intro ops
  induction ops with
  | nil =>
    intro s t v h
    cases h
    exact ⟨v, rfl⟩
  | cons i ops ih =>
    intro s t v h
    obtain ⟨u, hu, hrun⟩ := runOps_cons_eq_next_iff.1 h
    obtain ⟨v', hhead⟩ := runOps_withoutReader hu v
    obtain ⟨w, htail⟩ := ih u t v' hrun
    have hsplit : (i :: ops).filterMap Instr.withoutReader =
        i.withoutReader.toList ++ ops.filterMap Instr.withoutReader := by
      rw [List.filterMap_cons]
      cases i.withoutReader <;> rfl
    rw [hsplit]
    exact ⟨w, runOps_append_eq_next_iff.2 ⟨_, hhead, htail⟩⟩

/-- A firing lands on one macro-state at most. -/
theorem landingsIn_le (c : Config) (i : MacroState) (n : Nat) (b : Block c.k c.cw) : landingsIn c i n b ≤ n := by
  induction n generalizing b with
  | zero => exact le_refl 0
  | succ n ih =>
    have htail := ih (b.fire c)
    rw [landingsIn]
    split <;> omega

/-- Short of a wrap a counter grows by the landings on it, so it never decreases (R52 (a)). -/
theorem fires_cntRead_bounds {c : Config} {i : CntIdx} {n : Nat} {b : Block c.k c.cw}
    (h : (cntRead b.cnt i).toNat + n < 2 ^ c.cw) :
    (cntRead b.cnt i).toNat ≤ (cntRead (Block.fires c n b).cnt i).toNat ∧
      (cntRead (Block.fires c n b).cnt i).toNat ≤ (cntRead b.cnt i).toNat + n := by
  have hle := landingsIn_le c i n b
  rw [fires_cntRead_toNat, Nat.mod_eq_of_lt (by omega)]
  omega

/-- Settles O50: the run leaves the block after its firings. -/
theorem countersNeverDecrease : Obligations.CountersNeverDecrease := by
  intro ops s t i hreset hrun hroom
  obtain ⟨v, rfl⟩ := runOps_eq_fires hreset hrun
  exact fires_cntRead_bounds hroom

end Sys2Proof
end

section
/-! PROOF. The reader's snapshot (20_memory R51, R52, 43_counters_read R115 to R117): its values as counters, and runs with
wakes of the reader as runs of operations. -/

namespace Sys2Proof

open Machine

/-- A read that goes on leaves the block, with the counter on the bus. -/
theorem exec_read_eq_next_iff {i : CntIdx} {s t : State} :
    exec (.read i) s = .next t ↔ Ready s ∧ s.afterEdge s.block (cntRead s.block.cnt i) = t := by
  rw [exec_eq_next_iff, ← and_assoc]
  exact and_congr_left' (and_congr_right' (forall_prop_of_true rfl))

/-- Short of a wrap a counter is at most what it is after more firings. -/
theorem fires_cntRead_le {c : Config} {i : CntIdx} {m n : Nat} {b : Block c.k c.cw} (hmn : m ≤ n)
    (h : (cntRead b.cnt i).toNat + n < 2 ^ c.cw) :
    (cntRead (Block.fires c m b).cnt i).toNat ≤ (cntRead (Block.fires c n b).cnt i).toNat := by
  obtain ⟨l, rfl⟩ := Nat.exists_eq_add_of_le hmn
  obtain ⟨-, hle⟩ := fires_cntRead_bounds (n := m) (b := b) (i := i) (by omega)
  obtain ⟨hmono, -⟩ := fires_cntRead_bounds (n := l) (b := Block.fires c m b) (i := i) (by omega)
  rwa [fires_add]

/-- Four counters, each read after more firings than the one before: their sum is between the sums at the two ends (R52 (b)),
and is that sum where nothing fires (R52 (c)). -/
theorem fires_reads_between {c : Config} {b : Block c.k c.cw} {n1 n2 n3 : Nat}
    (hroom : ∀ i, (cntRead b.cnt i).toNat + (n1 + n2 + n3) < 2 ^ c.cw) {v0 v1 v2 v3 : Nat}
    (h0 : v0 = (cntRead b.cnt 0).toNat) (h1 : v1 = (cntRead (Block.fires c n1 b).cnt 1).toNat)
    (h2 : v2 = (cntRead (Block.fires c (n1 + n2) b).cnt 2).toNat)
    (h3 : v3 = (cntRead (Block.fires c (n1 + n2 + n3) b).cnt 3).toNat) :
    b.total ≤ v0 + v1 + v2 + v3 ∧ v0 + v1 + v2 + v3 ≤ (Block.fires c (n1 + n2 + n3) b).total ∧
      (n1 + n2 + n3 = 0 → v0 + v1 + v2 + v3 = b.total ∧ v1 = (cntRead b.cnt 1).toNat ∧
        v2 = (cntRead b.cnt 2).toNat ∧ v3 = (cntRead b.cnt 3).toNat) := by
  have hfrom (i : CntIdx) {m : Nat} (hm : m ≤ n1 + n2 + n3) :
      (cntRead b.cnt i).toNat ≤ (cntRead (Block.fires c m b).cnt i).toNat := by
    have := hroom i
    exact fires_cntRead_le (m := 0) m.zero_le (by omega)
  have hto (i : CntIdx) {m : Nat} (hm : m ≤ n1 + n2 + n3) :
      (cntRead (Block.fires c m b).cnt i).toNat ≤ (cntRead (Block.fires c (n1 + n2 + n3) b).cnt i).toNat :=
    fires_cntRead_le hm (hroom i)
  subst h0 h1 h2 h3
  refine ⟨?_, ?_, fun hnone => ?_⟩
  · have h1 := hfrom 1 (m := n1) (by omega)
    have h2 := hfrom 2 (m := n1 + n2) (by omega)
    have h3 := hfrom 3 (le_refl _)
    rw [Block.total]
    omega
  · have h0 := hfrom 0 (le_refl _)
    have h1 := hto 1 (m := n1) (by omega)
    have h2 := hto 2 (m := n1 + n2) (by omega)
    rw [Block.total]
    omega
  · obtain ⟨⟨rfl, rfl⟩, rfl⟩ : (n1 = 0 ∧ n2 = 0) ∧ n3 = 0 := by omega
    exact ⟨rfl, rfl, rfl, rfl⟩

/-- Settles O51: each counter is read at the block after the firings before its read. -/
theorem snapshotSumIsBetween : Obligations.SnapshotSumIsBetween := by
  intro s r0 a1 r1 a2 r2 a3 t ops1 ops2 ops3 hreset1 hreset2 hreset3 hr0 ha1 hr1 ha2 hr2 ha3 ht hroom
  rw [firings_append, firings_append] at hroom ⊢
  obtain ⟨-, rfl⟩ := exec_read_eq_next_iff.1 hr0
  obtain ⟨v1, rfl⟩ := runOps_eq_fires hreset1 ha1
  obtain ⟨-, rfl⟩ := exec_read_eq_next_iff.1 hr1
  obtain ⟨v2, rfl⟩ := runOps_eq_fires hreset2 ha2
  obtain ⟨-, rfl⟩ := exec_read_eq_next_iff.1 hr2
  obtain ⟨v3, rfl⟩ := runOps_eq_fires hreset3 ha3
  obtain ⟨-, rfl⟩ := exec_read_eq_next_iff.1 ht
  have hbetween := fires_reads_between hroom rfl rfl rfl rfl
  simp only [fires_add] at hbetween
  exact hbetween

/-- Settles O55: the values are the buses of the four reads, and a ready machine's reads and gaps all complete. -/
theorem snapshotReadsTheCounters : Obligations.SnapshotReadsTheCounters := by
  intro g s
  refine ⟨fun e he => ?_, fun hready => ?_⟩
  · obtain ⟨r0, a1, r1, a2, r2, a3, r3, h0, g1, h1, g2, h2, g3, h3, rfl⟩ := takeSnapshot_eq_next_iff.1 he
    have c0 := exec_cfg h0
    have c1 := (exec_cfg h1).trans ((runOps_cfg g1).trans c0)
    have c2 := (exec_cfg h2).trans ((runOps_cfg g2).trans c1)
    have c3 := (exec_cfg h3).trans ((runOps_cfg g3).trans c2)
    exact ⟨a1, a2, a3, runOps_cons_eq_next_iff.2 ⟨r0, h0, g1⟩, runOps_cons_eq_next_iff.2 ⟨r1, h1, g2⟩,
      runOps_cons_eq_next_iff.2 ⟨r2, h2, g3⟩, h3, (setWidth_bus_toNat c0).trans (exec_read_rdData h0),
      (setWidth_bus_toNat c1).trans (exec_read_rdData h1), (setWidth_bus_toNat c2).trans (exec_read_rdData h2),
      (setWidth_bus_toNat c3).trans (exec_read_rdData h3)⟩
  · obtain ⟨a1, hrun1, hready1, -⟩ := everyRequestCompletes (.read 0 :: g.afterRead0) s hready
    obtain ⟨a2, hrun2, hready2, -⟩ := everyRequestCompletes (.read 1 :: g.afterRead1) a1 hready1
    obtain ⟨a3, hrun3, hready3, -⟩ := everyRequestCompletes (.read 2 :: g.afterRead2) a2 hready2
    obtain ⟨r0, h0, g1⟩ := runOps_cons_eq_next_iff.1 hrun1
    obtain ⟨r1, h1, g2⟩ := runOps_cons_eq_next_iff.1 hrun2
    obtain ⟨r2, h2, g3⟩ := runOps_cons_eq_next_iff.1 hrun3
    have hsnap := takeSnapshot_eq_next_iff.2
      ⟨r0, a1, r1, a2, r2, a3, _, h0, g1, h1, g2, h2, g3, hready3.exec_eq_edgeOf _, rfl⟩
    refine ⟨_, hsnap, fun policy => ?_⟩
    rw [performWake, if_pos rfl, hsnap, andThen_next]

/-- A snapshot that goes on is the run of its operations. -/
theorem runOps_snapshotOps {g : Gaps} {s : State} {e : Taken s.cfg.cw} (h : takeSnapshot g s = .next e) :
    runOps (snapshotOps g) s = .next e.state := by
  obtain ⟨r0, a1, r1, a2, r2, a3, r3, h0, g1, h1, g2, h2, g3, h3, rfl⟩ := takeSnapshot_eq_next_iff.1 h
  refine runOps_append_eq_next_iff.2 ⟨a3, ?_, runOps_cons_eq_next_iff.2 ⟨r3, h3, rfl⟩⟩
  refine runOps_append_eq_next_iff.2 ⟨a2, ?_, runOps_cons_eq_next_iff.2 ⟨r2, h2, g3⟩⟩
  exact runOps_append_eq_next_iff.2
    ⟨a1, runOps_cons_eq_next_iff.2 ⟨r0, h0, g1⟩, runOps_cons_eq_next_iff.2 ⟨r1, h1, g2⟩⟩

/-- A wake that goes on is the run of its operations, and sends at most one line, none without a session (R117). -/
theorem performWake_eq_next {policy : ZeroTotalPolicy} {ready : Bool} {g : Gaps} {s : State} {e : WakeEnd s.cfg.cw}
    (h : performWake policy ready g s = .next e) :
    runOps (if ready then snapshotOps g else []) s = .next e.state ∧ e.line.toList.length ≤ ready.toNat := by
  cases ready with
  | false =>
    cases h
    exact ⟨rfl, le_refl 0⟩
  | true =>
    obtain ⟨taken, htaken, hend⟩ := andThen_eq_next_iff.1 h
    cases hend
    exact ⟨runOps_snapshotOps htaken, by rw [Option.length_toList]; split <;> decide⟩

/-- All a wake in a run can do, after what precedes it. -/
theorem runWakes_cons_eq_next_iff {policy : ZeroTotalPolicy} {w : Wake} {ws : List Wake} {s : State} {p : Reports} :
    runWakes policy (w :: ws) s = .next p ↔ ∃ a e q, runOps w.before s = .next a ∧
      performWake policy w.sessionReady w.gaps a = .next e ∧ runWakes policy ws e.state = .next q ∧
      { state := q.state, lines := e.line.toList ++ q.lines } = p := by
  simp only [runWakes, andThen_eq_next_iff, Host.Outcome.next.injEq]
  constructor
  · rintro ⟨a, ha, e, he, q, hq, rfl⟩
    exact ⟨a, e, q, ha, he, hq, rfl⟩
  · rintro ⟨a, e, q, ha, he, hq, rfl⟩
    exact ⟨a, ha, e, he, q, hq, rfl⟩

/-- A run of wakes that goes on is the run of their operations, by induction on the wakes. -/
theorem runWakes_eq_next {policy : ZeroTotalPolicy} {ws : List Wake} {s : State} {p : Reports}
    (h : runWakes policy ws s = .next p) :
    runOps (ws.flatMap Wake.ops) s = .next p.state ∧ p.lines.length ≤ ws.countP Wake.sessionReady := by
  induction ws generalizing s p with
  | nil =>
    cases h
    exact ⟨rfl, le_refl 0⟩
  | cons w ws ih =>
    obtain ⟨a, e, q, hbefore, hwake, hrest, rfl⟩ := runWakes_cons_eq_next_iff.1 h
    obtain ⟨hrun, hline⟩ := performWake_eq_next hwake
    obtain ⟨hruns, hlines⟩ := ih hrest
    have hops : runOps w.ops s = .next e.state := runOps_append_eq_next_iff.2 ⟨a, hbefore, hrun⟩
    refine ⟨runOps_append_eq_next_iff.2 ⟨e.state, hops, hruns⟩, ?_⟩
    have hcount : (w :: ws).countP Wake.sessionReady = ws.countP Wake.sessionReady + w.sessionReady.toNat := by
      rw [List.countP_cons]
      cases w.sessionReady <;> rfl
    rw [List.length_append, hcount, Nat.add_comm]
    exact Nat.add_le_add hlines hline

/-- A run of a ready machine ends ready. -/
theorem Ready.of_runOps {ops : List Instr} {s t : State} (h : Ready s) (hrun : runOps ops s = .next t) : Ready t := by
  obtain ⟨u, hu, hready, -⟩ := everyRequestCompletes ops s h
  rw [hrun] at hu
  cases hu
  exact hready

/-- A wake of a ready machine completes. -/
theorem Ready.exists_performWake {s : State} (h : Ready s) (policy : ZeroTotalPolicy) (ready : Bool) (g : Gaps) :
    ∃ e, performWake policy ready g s = .next e := by
  cases ready with
  | false => exact ⟨_, rfl⟩
  | true =>
    obtain ⟨-, hcompletes⟩ := snapshotReadsTheCounters g s
    obtain ⟨e, -, hwake⟩ := hcompletes h
    exact ⟨_, hwake policy⟩

/-- Every run of wakes of a ready machine completes, by induction on the wakes. -/
theorem Ready.exists_runWakes {s : State} (h : Ready s) (policy : ZeroTotalPolicy) (ws : List Wake) :
    ∃ p, runWakes policy ws s = .next p := by
  induction ws generalizing s with
  | nil => exact ⟨_, rfl⟩
  | cons w ws ih =>
    obtain ⟨a, hbefore, hready, -⟩ := everyRequestCompletes w.before s h
    obtain ⟨e, hwake⟩ := hready.exists_performWake policy w.sessionReady w.gaps
    obtain ⟨hrun, -⟩ := performWake_eq_next hwake
    obtain ⟨q, hrest⟩ := ih (hready.of_runOps hrun)
    exact ⟨_, runWakes_cons_eq_next_iff.2 ⟨a, e, q, hbefore, hwake, hrest, rfl⟩⟩

/-- Settles O54: what a run of wakes is, that it completes, and a wake without a session. -/
theorem wakesAreTheirOperations : Obligations.WakesAreTheirOperations := fun policy ws _ =>
  ⟨fun _ => runWakes_eq_next, fun hready => hready.exists_runWakes policy ws, fun _ => rfl⟩

end Sys2Proof
end

section
/-! PROOF. The reader's arithmetic (43_counters_read R117, R118): the sum of the counts, the exact ratio and the printed
one. -/

namespace Sys2Proof

open Machine

/-- Settles O52: four numbers below `2^CW` have a sum below four times that. -/
theorem totalDoesNotOverflow : Obligations.TotalDoesNotOverflow := by
  intro cw v
  have hpow : 2 ^ (cw + 2) = 4 * 2 ^ cw := by rw [Nat.pow_add, Nat.mul_comm]
  have h0 := v.c0.isLt
  have h1 := v.c1.isLt
  have h2 := v.c2.isLt
  have h3 := v.c3.isLt
  simp only [Snapshot.total, BitVec.toNat_add, BitVec.toNat_setWidth_of_le (Nat.le_add_right cw 2), Nat.mod_add_mod, hpow]
  exact Nat.mod_eq_of_lt (by omega)

/-- Rounding answers the quotient where the rest is at most half, the next number where it is at least half. -/
theorem ratioThousandths_cases (c0 total : Nat) :
    (ratioThousandths c0 total = 4000 * c0 / total ∧ 2 * (4000 * c0 % total) ≤ total) ∨
      (ratioThousandths c0 total = 4000 * c0 / total + 1 ∧ total ≤ 2 * (4000 * c0 % total)) := by
  simp only [ratioThousandths]
  split_ifs with hlow hhigh htie
  · exact .inl ⟨rfl, hlow.le⟩
  · exact .inr ⟨rfl, hhigh.le⟩
  · exact .inr ⟨rfl, not_lt.1 hlow⟩
  · exact .inl ⟨rfl, not_lt.1 hhigh⟩

/-- Settles O53, by which way the rounding goes; at 4 there is no rest to round. -/
theorem printedRatioIsNearest : Obligations.PrintedRatioIsNearest := by
  intro c0 total hpos hle
  have hdiv := Nat.div_add_mod' (4000 * c0) total
  have hrest := Nat.mod_lt (4000 * c0) hpos
  have hmax : 4000 * c0 / total ≤ 4000 := Nat.div_le_of_le_mul (by rw [Nat.mul_comm]; exact Nat.mul_le_mul_right 4000 hle)
  rcases ratioThousandths_cases c0 total with ⟨heq, hhalf⟩ | ⟨heq, hhalf⟩
  · rw [heq]
    omega
  · have hne : 4000 * c0 / total ≠ 4000 := by
      intro h
      rw [h] at hdiv
      omega
    rw [heq, Nat.add_mul, Nat.one_mul]
    omega

/-- A nearest thousandth by whole numbers is one by fractions. -/
theorem abs_thousandths_sub_ratio_le {m c0 total : Nat} (hpos : 0 < total)
    (hupper : 2 * (m * total) ≤ 2 * (4000 * c0) + total) (hlower : 2 * (4000 * c0) ≤ 2 * (m * total) + total) :
    |(m : ℚ) / 1000 - 4 * c0 / total| ≤ 1 / 2000 := by
  have hpos' : (0 : ℚ) < total := Nat.cast_pos.2 hpos
  have hupper' : 2 * (m * total) ≤ 2 * (4000 * c0) + (total : ℚ) := mod_cast hupper
  have hlower' : 2 * (4000 * c0) ≤ 2 * (m * total) + (total : ℚ) := mod_cast hlower
  have hle : (4 * c0 / total : ℚ) ≤ m / 1000 + 1 / 2000 := by
    rw [div_le_iff₀ hpos']
    linarith
  have hge : (m / 1000 - 1 / 2000 : ℚ) ≤ 4 * c0 / total := by
    rw [le_div_iff₀ hpos']
    linarith
  rw [abs_le]
  constructor <;> linarith

/-- The total is 0 where all the counts are. -/
theorem total_eq_zero_iff {cw : Nat} (v : Snapshot cw) : v.total = 0 ↔ v.c0 = 0 ∧ v.c1 = 0 ∧ v.c2 = 0 ∧ v.c3 = 0 := by
  have hzero {w : Nat} (x : BitVec w) : x = 0 ↔ x.toNat = 0 := by
    rw [← BitVec.toNat_inj, BitVec.ofNat_eq_ofNat, BitVec.toNat_zero]
  simp only [hzero, totalDoesNotOverflow cw v]
  omega

/-- Settles O56, for the one ratio there is where the total is not 0. -/
theorem exactRatioIsBetweenZeroAndFour : Obligations.ExactRatioIsBetweenZeroAndFour := by
  intro cw v
  rw [← total_eq_zero_iff, ← totalDoesNotOverflow cw v]
  by_cases htotal : v.total = 0
  · have hratio : v.ratio = none := if_pos htotal
    rw [hratio]
    exact ⟨iff_of_true rfl htotal, nofun⟩
  · have hle : v.c0.toNat ≤ v.total.toNat := by
      rw [totalDoesNotOverflow cw v]
      omega
    have hpos : 0 < v.total.toNat := Nat.pos_of_ne_zero fun h => htotal (BitVec.eq_of_toNat_eq h)
    have hpos' : (0 : ℚ) < v.total.toNat := Nat.cast_pos.2 hpos
    have hle' : (v.c0.toNat : ℚ) ≤ v.total.toNat := Nat.cast_le.2 hle
    obtain ⟨hupper, hlower, -⟩ := printedRatioIsNearest v.c0.toNat v.total.toNat hpos hle
    rw [Snapshot.ratio_of_total rfl rfl hpos.ne']
    refine ⟨iff_of_false nofun htotal, fun r hr => ?_⟩
    obtain rfl := Option.some.inj hr
    refine ⟨by positivity, ?_, ?_, abs_thousandths_sub_ratio_le hpos hupper hlower⟩
    · rw [div_le_iff₀ hpos']
      linarith
    · rw [div_eq_one_iff_eq hpos'.ne']
      exact_mod_cast Iff.rfl

end Sys2Proof
end
